-- ==== Sys2Proof/Word.lean ====
section
/-!
DEFINITION. The word and byte types of the S+core7 and the width of an instruction
(spec/00_scope.md R7: every register and address is 32 bits, a byte 8 bits).
-/
namespace Sys2Proof

/-- A 32-bit word: a register, an address, an instruction word (00_scope.md R7). -/
abbrev Word := BitVec 32

/-- An 8-bit byte of memory (00_scope.md R7, 20_memory.md R80). -/
abbrev Byte := BitVec 8

/-- The two instruction widths that share one instruction stream (00_scope.md R3). -/
inductive Width where
  | w32
  | w16
  deriving DecidableEq, Repr

/-- `ilen`, the length of an instruction in bytes (30_encoding.md R143). -/
def Width.bytes : Width → Word
  | .w32 => 4#32
  | .w16 => 2#32

end Sys2Proof
end

