-- ==== Sys2Proof/Syntax.lean ====
section
/-!
DEFINITION. The abstract syntax of every instruction of spec/opcode_table.json: one constructor of `Instr` a row,
in the table's order. A constructor ending in `16` is a 16-bit instruction (mnemonic ending in `!`), one ending in
`Pre` or `Post` an indexed load or store (43_load_store.md R361), one ending in 1, 2 or 3 a coprocessor instruction.
Register operands are the numbers the fields hold; a 4-bit register operand of a 16-bit instruction is the field
(46_16bit.md R511), a `push!`/`pop!` destination the five bits H and rD together (30_encoding.md R164).
-/
namespace Sys2Proof

/-- The sixteen condition codes of 30_encoding.md R170, in the order of their numbers. -/
inductive Cond where
  | cs | cc | gtu | leu | eq | ne | gt | le | ge | lt | mi | pl | vs | vc | cnz | al
  deriving DecidableEq, Repr

/-- The TC field of `cmp` and `cmpz` (30_encoding.md R172): what the compare does to T. -/
inductive TestCond where
  /-- 00: T takes the new Z -/
  | teq
  /-- 01: T takes the new N -/
  | tmi
  /-- 10: reserved, behaves like 11 -/
  | reserved
  /-- 11: T unchanged -/
  | none
  deriving DecidableEq, Repr

/-- The three coprocessors CP# = 01, 10, 11 (30_encoding.md R162). -/
inductive CopNum where
  | cp1 | cp2 | cp3
  deriving DecidableEq, Repr

/-- The instructions, one constructor per row of the opcode table. -/
inductive Instr where
  /-- `add`, R230 -/
  | add (rd : BitVec 5) (ra : BitVec 5) (rb : BitVec 5) (cu : Bool)
  /-- `addc`, R231 -/
  | addc (rd : BitVec 5) (ra : BitVec 5) (rb : BitVec 5) (cu : Bool)
  /-- `sub`, R235 -/
  | sub (rd : BitVec 5) (ra : BitVec 5) (rb : BitVec 5) (cu : Bool)
  /-- `subc`, R236 -/
  | subc (rd : BitVec 5) (ra : BitVec 5) (rb : BitVec 5) (cu : Bool)
  /-- `neg`, R237 -/
  | neg (rd : BitVec 5) (rb : BitVec 5) (cu : Bool)
  /-- `cmp`, R238 -/
  | cmp (tc : TestCond) (ra : BitVec 5) (rb : BitVec 5)
  /-- `cmpz`, R239 -/
  | cmpz (tc : TestCond) (ra : BitVec 5)
  /-- `and`, R245 -/
  | and (rd : BitVec 5) (ra : BitVec 5) (rb : BitVec 5) (cu : Bool)
  /-- `or`, R249 -/
  | or (rd : BitVec 5) (ra : BitVec 5) (rb : BitVec 5) (cu : Bool)
  /-- `xor`, R253 -/
  | xor (rd : BitVec 5) (ra : BitVec 5) (rb : BitVec 5) (cu : Bool)
  /-- `not`, R254 -/
  | not (rd : BitVec 5) (ra : BitVec 5) (cu : Bool)
  /-- `bitclr.c`, R263 -/
  | bitclr (rd : BitVec 5) (ra : BitVec 5) (bn : BitVec 5)
  /-- `bitset.c`, R264 -/
  | bitset (rd : BitVec 5) (ra : BitVec 5) (bn : BitVec 5)
  /-- `bittgl.c`, R265 -/
  | bittgl (rd : BitVec 5) (ra : BitVec 5) (bn : BitVec 5)
  /-- `bittst.c`, R266 -/
  | bittst (ra : BitVec 5) (bn : BitVec 5)
  /-- `nop`, R272 -/
  | nop
  /-- `sll`, R282 -/
  | sll (rd : BitVec 5) (ra : BitVec 5) (rb : BitVec 5) (cu : Bool)
  /-- `slli`, R283 -/
  | slli (rd : BitVec 5) (ra : BitVec 5) (sa : BitVec 5) (cu : Bool)
  /-- `srl`, R284 -/
  | srl (rd : BitVec 5) (ra : BitVec 5) (rb : BitVec 5) (cu : Bool)
  /-- `srli`, R285 -/
  | srli (rd : BitVec 5) (ra : BitVec 5) (sa : BitVec 5) (cu : Bool)
  /-- `sra`, R286 -/
  | sra (rd : BitVec 5) (ra : BitVec 5) (rb : BitVec 5) (cu : Bool)
  /-- `srai`, R287 -/
  | srai (rd : BitVec 5) (ra : BitVec 5) (sa : BitVec 5) (cu : Bool)
  /-- `rol`, R291 -/
  | rol (rd : BitVec 5) (ra : BitVec 5) (rb : BitVec 5) (cu : Bool)
  /-- `roli`, R292 -/
  | roli (rd : BitVec 5) (ra : BitVec 5) (sa : BitVec 5) (cu : Bool)
  /-- `ror`, R293 -/
  | ror (rd : BitVec 5) (ra : BitVec 5) (rb : BitVec 5) (cu : Bool)
  /-- `rori`, R294 -/
  | rori (rd : BitVec 5) (ra : BitVec 5) (sa : BitVec 5) (cu : Bool)
  /-- `rolc.c`, R295 -/
  | rolc (rd : BitVec 5) (ra : BitVec 5) (rb : BitVec 5)
  /-- `rolic.c`, R296 -/
  | rolic (rd : BitVec 5) (ra : BitVec 5) (sa : BitVec 5)
  /-- `rorc.c`, R297 -/
  | rorc (rd : BitVec 5) (ra : BitVec 5) (rb : BitVec 5)
  /-- `roric.c`, R298 -/
  | roric (rd : BitVec 5) (ra : BitVec 5) (sa : BitVec 5)
  /-- `extsb`, R301 -/
  | extsb (rd : BitVec 5) (ra : BitVec 5) (cu : Bool)
  /-- `extsh`, R302 -/
  | extsh (rd : BitVec 5) (ra : BitVec 5) (cu : Bool)
  /-- `extzb`, R303 -/
  | extzb (rd : BitVec 5) (ra : BitVec 5) (cu : Bool)
  /-- `extzh`, R304 -/
  | extzh (rd : BitVec 5) (ra : BitVec 5) (cu : Bool)
  /-- `mv<cond>`, R310 -/
  | mvcond (rd : BitVec 5) (ra : BitVec 5) (ec : Cond)
  /-- `mfsr`, R315 -/
  | mfsr (rd : BitVec 5) (srn : BitVec 5)
  /-- `mtsr`, R316 -/
  | mtsr (ra : BitVec 5) (srn : BitVec 5)
  /-- `t<cond>`, R320 -/
  | tcond (ec : Cond)
  /-- `br<cond>`, R345 -/
  | brcond (ra : BitVec 5) (bc : Cond)
  /-- `br<cond>l`, R346 -/
  | brcondl (ra : BitVec 5) (bc : Cond)
  /-- `lcb`, R390 -/
  | lcb (ra : BitVec 5)
  /-- `lcw`, R391 -/
  | lcw (rd : BitVec 5) (ra : BitVec 5)
  /-- `lce`, R392 -/
  | lce (rd : BitVec 5) (ra : BitVec 5)
  /-- `scb`, R395 -/
  | scb (rd : BitVec 5) (ra : BitVec 5)
  /-- `scw`, R396 -/
  | scw (rd : BitVec 5) (ra : BitVec 5)
  /-- `sce`, R397 -/
  | sce (ra : BitVec 5)
  /-- `alw`, R398 -/
  | alw (rd : BitVec 5) (ra : BitVec 5)
  /-- `asw`, R399 -/
  | asw (rd : BitVec 5) (ra : BitVec 5)
  /-- `mul`, R421 -/
  | mul (ra : BitVec 5) (rb : BitVec 5)
  /-- `mulu`, R422 -/
  | mulu (ra : BitVec 5) (rb : BitVec 5)
  /-- `div`, R424 -/
  | div (ra : BitVec 5) (rb : BitVec 5)
  /-- `divu`, R425 -/
  | divu (ra : BitVec 5) (rb : BitVec 5)
  /-- `mfcel`, R431 -/
  | mfcel (rd : BitVec 5)
  /-- `mfceh`, R432 -/
  | mfceh (rd : BitVec 5)
  /-- `mfcehl`, R433 -/
  | mfcehl (rd : BitVec 5) (ra : BitVec 5)
  /-- `mtcel`, R434 -/
  | mtcel (rd : BitVec 5)
  /-- `mtceh`, R435 -/
  | mtceh (rd : BitVec 5)
  /-- `mtcehl`, R436 -/
  | mtcehl (rd : BitVec 5) (ra : BitVec 5)
  /-- `syscall`, R461 -/
  | syscall (spar : BitVec 15)
  /-- `trap<cond>`, R462 -/
  | trapcond (swp : BitVec 5) (ec : Cond)
  /-- `sdbbp`, R465 -/
  | sdbbp (code : BitVec 5)
  /-- `pflush`, R490 -/
  | pflush
  /-- `addi`, R232 -/
  | addi (rd : BitVec 5) (imm : BitVec 16) (cu : Bool)
  /-- `addis`, R233 -/
  | addis (rd : BitVec 5) (imm : BitVec 16) (cu : Bool)
  /-- `cmpi.c`, R240 -/
  | cmpi (rd : BitVec 5) (imm : BitVec 16)
  /-- `andi`, R246 -/
  | andi (rd : BitVec 5) (imm : BitVec 16) (cu : Bool)
  /-- `andis`, R247 -/
  | andis (rd : BitVec 5) (imm : BitVec 16) (cu : Bool)
  /-- `ori`, R250 -/
  | ori (rd : BitVec 5) (imm : BitVec 16) (cu : Bool)
  /-- `oris`, R251 -/
  | oris (rd : BitVec 5) (imm : BitVec 16) (cu : Bool)
  /-- `ldi`, R270 -/
  | ldi (rd : BitVec 5) (imm : BitVec 16)
  /-- `ldis`, R271 -/
  | ldis (rd : BitVec 5) (imm : BitVec 16)
  /-- `addri`, R234 -/
  | addri (rd : BitVec 5) (ra : BitVec 5) (imm : BitVec 14) (cu : Bool)
  /-- `andri`, R248 -/
  | andri (rd : BitVec 5) (ra : BitVec 5) (imm : BitVec 14) (cu : Bool)
  /-- `orri`, R252 -/
  | orri (rd : BitVec 5) (ra : BitVec 5) (imm : BitVec 14) (cu : Bool)
  /-- `j`, R335 -/
  | j (disp : BitVec 24)
  /-- `jl`, R336 -/
  | jl (disp : BitVec 24)
  /-- `b<cond>`, R340 -/
  | bcond (bc : Cond) (disp : BitVec 19)
  /-- `b<cond>l`, R341 -/
  | bcondl (bc : Cond) (disp : BitVec 19)
  /-- `lw`, R364 -/
  | lw (rd : BitVec 5) (ra : BitVec 5) (imm : BitVec 15)
  /-- `lw__pre-index`, R365 -/
  | lwPre (rd : BitVec 5) (ra : BitVec 5) (imm : BitVec 12)
  /-- `lw__post-index`, R366 -/
  | lwPost (rd : BitVec 5) (ra : BitVec 5) (imm : BitVec 12)
  /-- `lh`, R367 -/
  | lh (rd : BitVec 5) (ra : BitVec 5) (imm : BitVec 15)
  /-- `lh__pre-index`, R368 -/
  | lhPre (rd : BitVec 5) (ra : BitVec 5) (imm : BitVec 12)
  /-- `lh__post-index`, R369 -/
  | lhPost (rd : BitVec 5) (ra : BitVec 5) (imm : BitVec 12)
  /-- `lhu`, R370 -/
  | lhu (rd : BitVec 5) (ra : BitVec 5) (imm : BitVec 15)
  /-- `lhu__pre-index`, R371 -/
  | lhuPre (rd : BitVec 5) (ra : BitVec 5) (imm : BitVec 12)
  /-- `lhu__post-index`, R372 -/
  | lhuPost (rd : BitVec 5) (ra : BitVec 5) (imm : BitVec 12)
  /-- `lb`, R373 -/
  | lb (rd : BitVec 5) (ra : BitVec 5) (imm : BitVec 15)
  /-- `lb__pre-index`, R374 -/
  | lbPre (rd : BitVec 5) (ra : BitVec 5) (imm : BitVec 12)
  /-- `lb__post-index`, R375 -/
  | lbPost (rd : BitVec 5) (ra : BitVec 5) (imm : BitVec 12)
  /-- `lbu`, R376 -/
  | lbu (rd : BitVec 5) (ra : BitVec 5) (imm : BitVec 15)
  /-- `lbu__pre-index`, R377 -/
  | lbuPre (rd : BitVec 5) (ra : BitVec 5) (imm : BitVec 12)
  /-- `lbu__post-index`, R378 -/
  | lbuPost (rd : BitVec 5) (ra : BitVec 5) (imm : BitVec 12)
  /-- `sw`, R379 -/
  | sw (rd : BitVec 5) (ra : BitVec 5) (imm : BitVec 15)
  /-- `sw__pre-index`, R380 -/
  | swPre (rd : BitVec 5) (ra : BitVec 5) (imm : BitVec 12)
  /-- `sw__post-index`, R381 -/
  | swPost (rd : BitVec 5) (ra : BitVec 5) (imm : BitVec 12)
  /-- `sh`, R382 -/
  | sh (rd : BitVec 5) (ra : BitVec 5) (imm : BitVec 15)
  /-- `sh__pre-index`, R383 -/
  | shPre (rd : BitVec 5) (ra : BitVec 5) (imm : BitVec 12)
  /-- `sh__post-index`, R384 -/
  | shPost (rd : BitVec 5) (ra : BitVec 5) (imm : BitVec 12)
  /-- `sb`, R385 -/
  | sb (rd : BitVec 5) (ra : BitVec 5) (imm : BitVec 15)
  /-- `sb__pre-index`, R386 -/
  | sbPre (rd : BitVec 5) (ra : BitVec 5) (imm : BitVec 12)
  /-- `sb__post-index`, R387 -/
  | sbPost (rd : BitVec 5) (ra : BitVec 5) (imm : BitVec 12)
  /-- `cache`, R485 -/
  | cache (op : BitVec 5) (ra : BitVec 5) (imm : BitVec 15)
  /-- `ceinst`, R440 -/
  | ceinst (usd1 : BitVec 5) (ra : BitVec 5) (rb : BitVec 5) (usd2 : BitVec 5) (func5 : BitVec 5)
  /-- `mtcr`, R481 -/
  | mtcr (rd : BitVec 5) (crn : BitVec 5)
  /-- `mfcr`, R480 -/
  | mfcr (rd : BitVec 5) (crn : BitVec 5)
  /-- `rte`, R470 -/
  | rte
  /-- `drte`, R472 -/
  | drte
  /-- `sleep`, R476 -/
  | sleep
  /-- `stlb`, R200 -/
  | stlb
  /-- `mftlb`, R200 -/
  | mftlb
  /-- `mtptlb`, R200 -/
  | mtptlb
  /-- `mtrtlb`, R200 -/
  | mtrtlb
  /-- `mtc1`, R443 -/
  | mtc1 (rd : BitVec 5) (cra : BitVec 5)
  /-- `mfc1`, R444 -/
  | mfc1 (rd : BitVec 5) (cra : BitVec 5)
  /-- `mtcc1`, R445 -/
  | mtcc1 (rd : BitVec 5) (cra : BitVec 5)
  /-- `mfcc1`, R446 -/
  | mfcc1 (rd : BitVec 5) (cra : BitVec 5)
  /-- `ldc1`, R447 -/
  | ldc1 (rd : BitVec 5) (cra : BitVec 5) (imm : BitVec 10)
  /-- `stc1`, R448 -/
  | stc1 (rd : BitVec 5) (cra : BitVec 5) (imm : BitVec 10)
  /-- `cop1`, R449 -/
  | cop1 (crd : BitVec 5) (cra : BitVec 5) (crb : BitVec 5) (code : BitVec 5)
  /-- `mtc2`, R443 -/
  | mtc2 (rd : BitVec 5) (cra : BitVec 5)
  /-- `mfc2`, R444 -/
  | mfc2 (rd : BitVec 5) (cra : BitVec 5)
  /-- `mtcc2`, R445 -/
  | mtcc2 (rd : BitVec 5) (cra : BitVec 5)
  /-- `mfcc2`, R446 -/
  | mfcc2 (rd : BitVec 5) (cra : BitVec 5)
  /-- `ldc2`, R447 -/
  | ldc2 (rd : BitVec 5) (cra : BitVec 5) (imm : BitVec 10)
  /-- `stc2`, R448 -/
  | stc2 (rd : BitVec 5) (cra : BitVec 5) (imm : BitVec 10)
  /-- `cop2`, R449 -/
  | cop2 (crd : BitVec 5) (cra : BitVec 5) (crb : BitVec 5) (code : BitVec 5)
  /-- `mtc3`, R443 -/
  | mtc3 (rd : BitVec 5) (cra : BitVec 5)
  /-- `mfc3`, R444 -/
  | mfc3 (rd : BitVec 5) (cra : BitVec 5)
  /-- `mtcc3`, R445 -/
  | mtcc3 (rd : BitVec 5) (cra : BitVec 5)
  /-- `mfcc3`, R446 -/
  | mfcc3 (rd : BitVec 5) (cra : BitVec 5)
  /-- `ldc3`, R447 -/
  | ldc3 (rd : BitVec 5) (cra : BitVec 5) (imm : BitVec 10)
  /-- `stc3`, R448 -/
  | stc3 (rd : BitVec 5) (cra : BitVec 5) (imm : BitVec 10)
  /-- `cop3`, R449 -/
  | cop3 (crd : BitVec 5) (cra : BitVec 5) (crb : BitVec 5) (code : BitVec 5)
  /-- `add!`, R515 -/
  | add16 (rd : BitVec 4) (ra : BitVec 4)
  /-- `addc!`, R516 -/
  | addc16 (rd : BitVec 4) (ra : BitVec 4)
  /-- `sub!`, R517 -/
  | sub16 (rd : BitVec 4) (ra : BitVec 4)
  /-- `cmp!`, R518 -/
  | cmp16 (rd : BitVec 4) (ra : BitVec 4)
  /-- `neg!`, R519 -/
  | neg16 (rd : BitVec 4) (ra : BitVec 4)
  /-- `mv!`, R522 -/
  | mv16 (rd : BitVec 4) (ra : BitVec 4)
  /-- `and!`, R527 -/
  | and16 (rd : BitVec 4) (ra : BitVec 4)
  /-- `or!`, R528 -/
  | or16 (rd : BitVec 4) (ra : BitVec 4)
  /-- `xor!`, R529 -/
  | xor16 (rd : BitVec 4) (ra : BitVec 4)
  /-- `not!`, R530 -/
  | not16 (rd : BitVec 4) (ra : BitVec 4)
  /-- `sll!`, R536 -/
  | sll16 (rd : BitVec 4) (ra : BitVec 4)
  /-- `srl!`, R537 -/
  | srl16 (rd : BitVec 4) (ra : BitVec 4)
  /-- `sra!`, R538 -/
  | sra16 (rd : BitVec 4) (ra : BitVec 4)
  /-- `lw!`, R562 -/
  | lw16 (rd : BitVec 4) (ra : BitVec 4)
  /-- `lh!`, R563 -/
  | lh16 (rd : BitVec 4) (ra : BitVec 4)
  /-- `lbu!`, R564 -/
  | lbu16 (rd : BitVec 4) (ra : BitVec 4)
  /-- `sw!`, R565 -/
  | sw16 (rd : BitVec 4) (ra : BitVec 4)
  /-- `sh!`, R566 -/
  | sh16 (rd : BitVec 4) (ra : BitVec 4)
  /-- `sb!`, R567 -/
  | sb16 (rd : BitVec 4) (ra : BitVec 4)
  /-- `mhfl!`, R524 -/
  | mhfl16 (rd : BitVec 4) (ra : BitVec 4)
  /-- `mlfh!`, R525 -/
  | mlfh16 (rd : BitVec 4) (ra : BitVec 4)
  /-- `nop!`, R526 -/
  | nop16
  /-- `t<cond>!`, R541 -/
  | tcond16 (ec : Cond)
  /-- `br<cond>!`, R545 -/
  | brcond16 (bc : Cond) (ra : BitVec 4)
  /-- `br<cond>l!`, R546 -/
  | brcondl16 (bc : Cond) (ra : BitVec 4)
  /-- `push!`, R560 -/
  | push16 (rd : BitVec 5) (ra : BitVec 3)
  /-- `pop!`, R561 -/
  | pop16 (rd : BitVec 5) (ra : BitVec 3)
  /-- `addei!`, R520 -/
  | addei16 (rd : BitVec 4) (exp : BitVec 4)
  /-- `subei!`, R521 -/
  | subei16 (rd : BitVec 4) (exp : BitVec 4)
  /-- `bitclr!`, R532 -/
  | bitclr16 (rd : BitVec 4) (bn : BitVec 5)
  /-- `bitset!`, R533 -/
  | bitset16 (rd : BitVec 4) (bn : BitVec 5)
  /-- `bittgl!`, R534 -/
  | bittgl16 (rd : BitVec 4) (bn : BitVec 5)
  /-- `bittst!`, R535 -/
  | bittst16 (rd : BitVec 4) (bn : BitVec 5)
  /-- `slli!`, R539 -/
  | slli16 (rd : BitVec 4) (sa : BitVec 5)
  /-- `srli!`, R540 -/
  | srli16 (rd : BitVec 4) (sa : BitVec 5)
  /-- `lwp!`, R550 -/
  | lwp16 (rd : BitVec 4) (imm : BitVec 5)
  /-- `lhp!`, R551 -/
  | lhp16 (rd : BitVec 4) (imm : BitVec 5)
  /-- `lbup!`, R552 -/
  | lbup16 (rd : BitVec 4) (imm : BitVec 5)
  /-- `swp!`, R553 -/
  | swp16 (rd : BitVec 4) (imm : BitVec 5)
  /-- `shp!`, R554 -/
  | shp16 (rd : BitVec 4) (imm : BitVec 5)
  /-- `sbp!`, R555 -/
  | sbp16 (rd : BitVec 4) (imm : BitVec 5)
  /-- `sdbbp!`, R570 -/
  | sdbbp16 (code : BitVec 5)
  /-- `ldiu!`, R523 -/
  | ldiu16 (rd : BitVec 4) (imm : BitVec 8)
  /-- `j!`, R542 -/
  | j16 (disp : BitVec 11)
  /-- `jl!`, R543 -/
  | jl16 (disp : BitVec 11)
  /-- `b<cond>!`, R544 -/
  | bcond16 (bc : Cond) (disp : BitVec 8)
  deriving DecidableEq, Repr

end Sys2Proof
end

