-- ==== Sys2Proof/Decode.lean ====
section
/-!
DEFINITION. From words to instructions and back (spec/30_encoding.md). A memory word is split by its P-bits (R141, R142);
`decode` reads the 30 bits of a 32-bit or the 15 bits of a 16-bit instruction by the opcode maps R180 to R187 and rejects,
by name, what they leave undefined; `encode` writes the instruction formats R155 to R164.
-/
namespace Sys2Proof

/-- Why the decoder rejects an encoding; the machine raises RI for each (log 17). -/
inductive Reject where
  /-- a free cell of an opcode map (30_encoding.md R190) -/
  | undefinedCell
  /-- a 1 in a bit the format prints as 0 (R191) -/
  | mustBeZero
  /-- the other value of a constant CU bit (R154, R191) -/
  | constantCu
  /-- `mfce`, `mtce` with H = L = 0 (R201) -/
  | reservedHL
  deriving DecidableEq, Repr

/-- An instruction after the P-bits are removed: `insn[29:0]` or `insn16[14:0]` (00_scope.md R11). -/
inductive Code where
  | w32 (insn : BitVec 30)
  | w16 (insn16 : BitVec 15)
  deriving DecidableEq, Repr

/-- The width of an instruction code. -/
def Code.width : Code → Width
  | .w32 _ => .w32
  | .w16 _ => .w16

/-! ## Words and their P-bits -/

/-- The four formats of a word (30_encoding.md R141). -/
inductive WordFormat where
  /-- 11: one 32-bit instruction -/
  | single (insn : BitVec 30)
  /-- 00: two 16-bit instructions -/
  | pair (hi lo : BitVec 15)
  /-- 01: a parallel-conditional pair -/
  | pce (hi lo : BitVec 15)
  /-- 10: undefined -/
  | undefined
  deriving DecidableEq, Repr

/-- The format of a memory word and its instructions (30_encoding.md R141, R142). -/
def wordFormat (w : Word) : WordFormat :=
  let hi := w.extractLsb' 16 15
  let lo := w.extractLsb' 0 15
  match w.getLsbD 31, w.getLsbD 15 with
  | true, true => .single (hi ++ lo)
  | false, false => .pair hi lo
  | false, true => .pce hi lo
  | true, false => .undefined

/-- The memory word that holds an instruction as its first one: P-bits added (30_encoding.md R142), a 16-bit instruction in
the higher half, with `nop!` in the lower. -/
def wordOf : Code → Word
  | .w32 i => 1#1 ++ i.extractLsb' 15 15 ++ 1#1 ++ i.extractLsb' 0 15
  | .w16 h => 0#1 ++ h ++ 0#16

/-- The instruction that executes first when a word is entered at its start with T = 1 (30_encoding.md R147). -/
def firstCode (w : Word) : Option Code :=
  match wordFormat w with
  | .single i => some (.w32 i)
  | .pair hi _ => some (.w16 hi)
  | .pce hi _ => some (.w16 hi)
  | .undefined => none

/-! ## Condition codes -/

/-- The number of a condition code (30_encoding.md R170). -/
def Cond.toBits : Cond → BitVec 4
  | .cs => 0#4 | .cc => 1#4 | .gtu => 2#4 | .leu => 3#4
  | .eq => 4#4 | .ne => 5#4 | .gt => 6#4 | .le => 7#4
  | .ge => 8#4 | .lt => 9#4 | .mi => 10#4 | .pl => 11#4
  | .vs => 12#4 | .vc => 13#4 | .cnz => 14#4 | .al => 15#4

/-- The condition code of a number (30_encoding.md R170). -/
def Cond.ofBits (b : BitVec 4) : Cond :=
  match b.toNat with
  | 0 => .cs | 1 => .cc | 2 => .gtu | 3 => .leu
  | 4 => .eq | 5 => .ne | 6 => .gt | 7 => .le
  | 8 => .ge | 9 => .lt | 10 => .mi | 11 => .pl
  | 12 => .vs | 13 => .vc | 14 => .cnz | _ => .al

/-- The TC field (30_encoding.md R172). -/
def TestCond.toBits : TestCond → BitVec 2
  | .teq => 0#2 | .tmi => 1#2 | .reserved => 2#2 | .none => 3#2

/-- The meaning of a TC field (30_encoding.md R172). -/
def TestCond.ofBits (b : BitVec 2) : TestCond :=
  match b.toNat with
  | 0 => .teq | 1 => .tmi | 2 => .reserved | _ => .none

/-! ## Fields of a 32-bit instruction -/

/-- OP, `insn[29:25]` -/
def fOp (w : BitVec 30) : BitVec 5 := w.extractLsb' 25 5
/-- rD, `insn[24:20]` -/
def fD (w : BitVec 30) : BitVec 5 := w.extractLsb' 20 5
/-- rA, `insn[19:15]` -/
def fA (w : BitVec 30) : BitVec 5 := w.extractLsb' 15 5
/-- rB, SA, BN, Srn, `insn[14:10]` -/
def fB (w : BitVec 30) : BitVec 5 := w.extractLsb' 10 5
/-- USD2, COP-Code, `insn[9:5]` -/
def fE (w : BitVec 30) : BitVec 5 := w.extractLsb' 5 5
/-- func5 of `ceinst`, `insn[4:0]` -/
def fF5 (w : BitVec 30) : BitVec 5 := w.extractLsb' 0 5
/-- BC, EC, `insn[13:10]`; bit 14 is a don't care (30_encoding.md R153) -/
def fCond (w : BitVec 30) : Cond := Cond.ofBits (w.extractLsb' 10 4)
/-- TC, `insn[21:20]` -/
def fTc (w : BitVec 30) : TestCond := TestCond.ofBits (w.extractLsb' 20 2)
/-- func6, `insn[6:1]` -/
def fFunc6 (w : BitVec 30) : BitVec 6 := w.extractLsb' 1 6
/-- CU, LK or MI, `insn[0]` -/
def fCu (w : BitVec 30) : Bool := w.getLsbD 0
/-- func3 of the I-form, `insn[19:17]` -/
def fI3 (w : BitVec 30) : BitVec 3 := w.extractLsb' 17 3
/-- Imm16, `insn[16:1]` -/
def fImm16 (w : BitVec 30) : BitVec 16 := w.extractLsb' 1 16
/-- Imm15, `insn[14:0]` -/
def fImm15 (w : BitVec 30) : BitVec 15 := w.extractLsb' 0 15
/-- Imm14, `insn[14:1]` -/
def fImm14 (w : BitVec 30) : BitVec 14 := w.extractLsb' 1 14
/-- Imm12, `insn[14:3]` -/
def fImm12 (w : BitVec 30) : BitVec 12 := w.extractLsb' 3 12
/-- Imm10, `insn[14:5]` -/
def fImm10 (w : BitVec 30) : BitVec 10 := w.extractLsb' 5 10
/-- func3 of the RIX-form, Sub-OP, `insn[2:0]` -/
def fLow3 (w : BitVec 30) : BitVec 3 := w.extractLsb' 0 3
/-- Disp24, `insn[24:1]` -/
def fDisp24 (w : BitVec 30) : BitVec 24 := w.extractLsb' 1 24
/-- Disp19, `insn[24:15]` and `insn[9:1]` (30_encoding.md R166) -/
def fDisp19 (w : BitVec 30) : BitVec 19 := w.extractLsb' 15 10 ++ w.extractLsb' 1 9
/-- SPar15, `insn[24:10]` -/
def fSpar (w : BitVec 30) : BitVec 15 := w.extractLsb' 10 15
/-- CP#, func2 of the CR-form, `insn[4:3]` -/
def fCp (w : BitVec 30) : BitVec 2 := w.extractLsb' 3 2
/-- CR_OP, `insn[7:5]` -/
def fCrOp (w : BitVec 30) : BitVec 3 := w.extractLsb' 5 3

/-- An instruction whose format prints `z` as zero bits (30_encoding.md R153). -/
def needZero {n : Nat} (z : BitVec n) (i : Instr) : Except Reject Instr :=
  if z = 0#n then .ok i else .error .mustBeZero

/-- An instruction whose CU bit is the constant `c` (30_encoding.md R154). -/
def needCu (w : BitVec 30) (c : Bool) (r : Except Reject Instr) : Except Reject Instr :=
  if fCu w = c then r else .error .constantCu

/-- OP = 00000, by func6 (30_encoding.md R157, R181), once `insn[9:7]` is known to be zero. -/
def decodeSpecialFunc (w : BitVec 30) : Except Reject Instr :=
  match (fFunc6 w).toNat with
  | 0 => needCu w false (needZero (w.extractLsb' 10 15) .nop)
  | 1 => needCu w false (.ok (.syscall (fSpar w)))
  | 2 => needCu w false (needZero (fD w) (.trapcond (fA w) (fCond w)))
  | 3 => needCu w false (needZero (fD w ++ fB w) (.sdbbp (fA w)))
  | 4 => needZero (fD w) (if fCu w then .brcondl (fA w) (fCond w) else .brcond (fA w) (fCond w))
  | 5 => needCu w false (needZero (w.extractLsb' 10 15) .pflush)
  | 6 => needCu w false (needZero (fB w) (.alw (fD w) (fA w)))
  | 7 => needCu w false (needZero (fB w) (.asw (fD w) (fA w)))
  | 8 => .ok (.add (fD w) (fA w) (fB w) (fCu w))
  | 9 => .ok (.addc (fD w) (fA w) (fB w) (fCu w))
  | 10 => .ok (.sub (fD w) (fA w) (fB w) (fCu w))
  | 11 => .ok (.subc (fD w) (fA w) (fB w) (fCu w))
  | 12 => needCu w true (needZero (w.extractLsb' 22 3) (.cmp (fTc w) (fA w) (fB w)))
  | 13 => needCu w true (needZero (w.extractLsb' 22 3 ++ fB w) (.cmpz (fTc w) (fA w)))
  | 15 => .ok (.neg (fD w) (fB w) (fCu w))
  | 16 => .ok (.and (fD w) (fA w) (fB w) (fCu w))
  | 17 => .ok (.or (fD w) (fA w) (fB w) (fCu w))
  | 18 => needZero (fB w) (.not (fD w) (fA w) (fCu w))
  | 19 => .ok (.xor (fD w) (fA w) (fB w) (fCu w))
  | 20 => needCu w true (.ok (.bitclr (fD w) (fA w) (fB w)))
  | 21 => needCu w true (.ok (.bitset (fD w) (fA w) (fB w)))
  | 22 => needCu w true (.ok (.bittst (fA w) (fB w)))
  | 23 => needCu w true (.ok (.bittgl (fD w) (fA w) (fB w)))
  | 24 => .ok (.sll (fD w) (fA w) (fB w) (fCu w))
  | 26 => .ok (.srl (fD w) (fA w) (fB w) (fCu w))
  | 27 => .ok (.sra (fD w) (fA w) (fB w) (fCu w))
  | 28 => .ok (.ror (fD w) (fA w) (fB w) (fCu w))
  | 29 => needCu w true (.ok (.rorc (fD w) (fA w) (fB w)))
  | 30 => .ok (.rol (fD w) (fA w) (fB w) (fCu w))
  | 31 => needCu w true (.ok (.rolc (fD w) (fA w) (fB w)))
  | 32 => needCu w false (needZero (fD w) (.mul (fA w) (fB w)))
  | 33 => needCu w false (needZero (fD w) (.mulu (fA w) (fB w)))
  | 34 => needCu w false (needZero (fD w) (.div (fA w) (fB w)))
  | 35 => needCu w false (needZero (fD w) (.divu (fA w) (fB w)))
  | 36 => needCu w false <|
      match (fB w).toNat with
      | 0 => .error .reservedHL
      | 1 => .ok (.mfcel (fD w))
      | 2 => .ok (.mfceh (fD w))
      | 3 => .ok (.mfcehl (fD w) (fA w))
      | _ => .error .mustBeZero
  | 37 => needCu w false <|
      match (fB w).toNat with
      | 0 => .error .reservedHL
      | 1 => .ok (.mtcel (fD w))
      | 2 => .ok (.mtceh (fD w))
      | 3 => .ok (.mtcehl (fD w) (fA w))
      | _ => .error .mustBeZero
  | 40 => needCu w false (needZero (fA w) (.mfsr (fD w) (fB w)))
  | 41 => needCu w false (needZero (fD w) (.mtsr (fA w) (fB w)))
  | 42 => needCu w false (needZero (w.extractLsb' 15 10) (.tcond (fCond w)))
  | 43 => needCu w false (.ok (.mvcond (fD w) (fA w) (fCond w)))
  | 44 => needZero (fB w) (.extsb (fD w) (fA w) (fCu w))
  | 45 => needZero (fB w) (.extsh (fD w) (fA w) (fCu w))
  | 46 => needZero (fB w) (.extzb (fD w) (fA w) (fCu w))
  | 47 => needZero (fB w) (.extzh (fD w) (fA w) (fCu w))
  | 48 => needCu w false (needZero (fD w ++ fB w) (.lcb (fA w)))
  | 49 => needCu w false (needZero (fB w) (.lcw (fD w) (fA w)))
  | 51 => needCu w false (needZero (fB w) (.lce (fD w) (fA w)))
  | 52 => needCu w false (needZero (fB w) (.scb (fD w) (fA w)))
  | 53 => needCu w false (needZero (fB w) (.scw (fD w) (fA w)))
  | 55 => needCu w false (needZero (fD w ++ fB w) (.sce (fA w)))
  | 56 => .ok (.slli (fD w) (fA w) (fB w) (fCu w))
  | 58 => .ok (.srli (fD w) (fA w) (fB w) (fCu w))
  | 59 => .ok (.srai (fD w) (fA w) (fB w) (fCu w))
  | 60 => .ok (.rori (fD w) (fA w) (fB w) (fCu w))
  | 61 => needCu w true (.ok (.roric (fD w) (fA w) (fB w)))
  | 62 => .ok (.roli (fD w) (fA w) (fB w) (fCu w))
  | 63 => needCu w true (.ok (.rolic (fD w) (fA w) (fB w)))
  | _ => .error .undefinedCell

/-- OP = 00000 (30_encoding.md R157): `insn[9:7]` is printed 000. -/
def decodeSpecial (w : BitVec 30) : Except Reject Instr :=
  if w.extractLsb' 7 3 = 0#3 then decodeSpecialFunc w else .error .mustBeZero

/-- OP = 00001, I-form-1 (30_encoding.md R158, R182). -/
def decodeIForm1 (w : BitVec 30) : Except Reject Instr :=
  match (fI3 w).toNat with
  | 0 => .ok (.addi (fD w) (fImm16 w) (fCu w))
  | 2 => needCu w true (.ok (.cmpi (fD w) (fImm16 w)))
  | 4 => .ok (.andi (fD w) (fImm16 w) (fCu w))
  | 5 => .ok (.ori (fD w) (fImm16 w) (fCu w))
  | 6 => needCu w false (.ok (.ldi (fD w) (fImm16 w)))
  | _ => .error .undefinedCell

/-- OP = 00101, I-form-2 (30_encoding.md R158, R182). -/
def decodeIForm2 (w : BitVec 30) : Except Reject Instr :=
  match (fI3 w).toNat with
  | 0 => .ok (.addis (fD w) (fImm16 w) (fCu w))
  | 4 => .ok (.andis (fD w) (fImm16 w) (fCu w))
  | 5 => .ok (.oris (fD w) (fImm16 w) (fCu w))
  | 6 => needCu w false (.ok (.ldis (fD w) (fImm16 w)))
  | _ => .error .undefinedCell

/-- OP = 00011, pre-index loads and stores (30_encoding.md R161, R183). -/
def decodePreIndex (w : BitVec 30) : Except Reject Instr :=
  match (fLow3 w).toNat with
  | 0 => .ok (.lwPre (fD w) (fA w) (fImm12 w))
  | 1 => .ok (.lhPre (fD w) (fA w) (fImm12 w))
  | 2 => .ok (.lhuPre (fD w) (fA w) (fImm12 w))
  | 3 => .ok (.lbPre (fD w) (fA w) (fImm12 w))
  | 4 => .ok (.swPre (fD w) (fA w) (fImm12 w))
  | 5 => .ok (.shPre (fD w) (fA w) (fImm12 w))
  | 6 => .ok (.lbuPre (fD w) (fA w) (fImm12 w))
  | _ => .ok (.sbPre (fD w) (fA w) (fImm12 w))

/-- OP = 00111, post-index loads and stores (30_encoding.md R161, R183). -/
def decodePostIndex (w : BitVec 30) : Except Reject Instr :=
  match (fLow3 w).toNat with
  | 0 => .ok (.lwPost (fD w) (fA w) (fImm12 w))
  | 1 => .ok (.lhPost (fD w) (fA w) (fImm12 w))
  | 2 => .ok (.lhuPost (fD w) (fA w) (fImm12 w))
  | 3 => .ok (.lbPost (fD w) (fA w) (fImm12 w))
  | 4 => .ok (.swPost (fD w) (fA w) (fImm12 w))
  | 5 => .ok (.shPost (fD w) (fA w) (fImm12 w))
  | 6 => .ok (.lbuPost (fD w) (fA w) (fImm12 w))
  | _ => .ok (.sbPost (fD w) (fA w) (fImm12 w))

/-- The CR-form: OP = 00110 with `insn[4:3]` = 00 (30_encoding.md R162, R184). -/
def decodeCrForm (w : BitVec 30) : Except Reject Instr :=
  if w.getLsbD 2 then
    let plain (i : Instr) := needZero (w.extractLsb' 8 17 ++ w.extractLsb' 0 2) i
    match (fCrOp w).toNat with
    | 0 => plain .stlb
    | 1 => plain .mftlb
    | 2 => plain .mtptlb
    | 3 => plain .mtrtlb
    | 4 => plain .rte
    | 5 => plain .drte
    | 6 => plain .sleep
    | _ => .error .undefinedCell
  else if fCrOp w = 0#3 then
    needZero (w.extractLsb' 8 7 ++ w.extractLsb' 1 1)
      (if fCu w then .mfcr (fD w) (fA w) else .mtcr (fD w) (fA w))
  else .error .undefinedCell

/-- Coprocessor 1, by Sub-OP (30_encoding.md R162, R184). -/
def decodeCop1 (w : BitVec 30) : Except Reject Instr :=
  match (fLow3 w).toNat with
  | 0 => needZero (fImm10 w) (.mtc1 (fD w) (fA w))
  | 1 => needZero (fImm10 w) (.mfc1 (fD w) (fA w))
  | 2 => .ok (.ldc1 (fD w) (fA w) (fImm10 w))
  | 3 => .ok (.stc1 (fD w) (fA w) (fImm10 w))
  | 4 => .ok (.cop1 (fD w) (fA w) (fB w) (fE w))
  | 6 => needZero (fImm10 w) (.mtcc1 (fD w) (fA w))
  | 7 => needZero (fImm10 w) (.mfcc1 (fD w) (fA w))
  | _ => .error .undefinedCell

/-- Coprocessor 2, by Sub-OP (30_encoding.md R162, R184). -/
def decodeCop2 (w : BitVec 30) : Except Reject Instr :=
  match (fLow3 w).toNat with
  | 0 => needZero (fImm10 w) (.mtc2 (fD w) (fA w))
  | 1 => needZero (fImm10 w) (.mfc2 (fD w) (fA w))
  | 2 => .ok (.ldc2 (fD w) (fA w) (fImm10 w))
  | 3 => .ok (.stc2 (fD w) (fA w) (fImm10 w))
  | 4 => .ok (.cop2 (fD w) (fA w) (fB w) (fE w))
  | 6 => needZero (fImm10 w) (.mtcc2 (fD w) (fA w))
  | 7 => needZero (fImm10 w) (.mfcc2 (fD w) (fA w))
  | _ => .error .undefinedCell

/-- Coprocessor 3, by Sub-OP (30_encoding.md R162, R184). -/
def decodeCop3 (w : BitVec 30) : Except Reject Instr :=
  match (fLow3 w).toNat with
  | 0 => needZero (fImm10 w) (.mtc3 (fD w) (fA w))
  | 1 => needZero (fImm10 w) (.mfc3 (fD w) (fA w))
  | 2 => .ok (.ldc3 (fD w) (fA w) (fImm10 w))
  | 3 => .ok (.stc3 (fD w) (fA w) (fImm10 w))
  | 4 => .ok (.cop3 (fD w) (fA w) (fB w) (fE w))
  | 6 => needZero (fImm10 w) (.mtcc3 (fD w) (fA w))
  | 7 => needZero (fImm10 w) (.mfcc3 (fD w) (fA w))
  | _ => .error .undefinedCell

/-- OP = 00110: the CR-form and the coprocessor forms, told apart by `insn[4:3]` (30_encoding.md R184). -/
def decodeCrCop (w : BitVec 30) : Except Reject Instr :=
  match (fCp w).toNat with
  | 0 => decodeCrForm w
  | 1 => decodeCop1 w
  | 2 => decodeCop2 w
  | _ => decodeCop3 w

/-- A 32-bit instruction, by the main opcode (30_encoding.md R180, R210). -/
def decode32 (w : BitVec 30) : Except Reject Instr :=
  match (fOp w).toNat with
  | 0 => decodeSpecial w
  | 1 => decodeIForm1 w
  | 2 => .ok (if fCu w then .jl (fDisp24 w) else .j (fDisp24 w))
  | 3 => decodePreIndex w
  | 4 => .ok (if fCu w then .bcondl (fCond w) (fDisp19 w) else .bcond (fCond w) (fDisp19 w))
  | 5 => decodeIForm2 w
  | 6 => decodeCrCop w
  | 7 => decodePostIndex w
  | 8 => .ok (.addri (fD w) (fA w) (fImm14 w) (fCu w))
  | 12 => .ok (.andri (fD w) (fA w) (fImm14 w) (fCu w))
  | 13 => .ok (.orri (fD w) (fA w) (fImm14 w) (fCu w))
  | 16 => .ok (.lw (fD w) (fA w) (fImm15 w))
  | 17 => .ok (.lh (fD w) (fA w) (fImm15 w))
  | 18 => .ok (.lhu (fD w) (fA w) (fImm15 w))
  | 19 => .ok (.lb (fD w) (fA w) (fImm15 w))
  | 20 => .ok (.sw (fD w) (fA w) (fImm15 w))
  | 21 => .ok (.sh (fD w) (fA w) (fImm15 w))
  | 22 => .ok (.lbu (fD w) (fA w) (fImm15 w))
  | 23 => .ok (.sb (fD w) (fA w) (fImm15 w))
  | 24 => .ok (.cache (fD w) (fA w) (fImm15 w))
  | 28 => .ok (.ceinst (fD w) (fA w) (fB w) (fE w) (fF5 w))
  | _ => .error .undefinedCell

/-! ## Fields of a 16-bit instruction -/

/-- OP, `insn16[14:12]` -/
def hOp (h : BitVec 15) : BitVec 3 := h.extractLsb' 12 3
/-- rD, BC, EC, `insn16[11:8]` -/
def hD (h : BitVec 15) : BitVec 4 := h.extractLsb' 8 4
/-- rA, `insn16[7:4]` -/
def hA (h : BitVec 15) : BitVec 4 := h.extractLsb' 4 4
/-- func4, `insn16[3:0]` -/
def hFunc4 (h : BitVec 15) : BitVec 4 := h.extractLsb' 0 4
/-- Imm5, SA, BN, Code, `insn16[7:3]` -/
def hImm5 (h : BitVec 15) : BitVec 5 := h.extractLsb' 3 5
/-- Exp4, `insn16[6:3]` -/
def hExp (h : BitVec 15) : BitVec 4 := h.extractLsb' 3 4
/-- func3, `insn16[2:0]` -/
def hFunc3 (h : BitVec 15) : BitVec 3 := h.extractLsb' 0 3
/-- Imm8, Disp8, `insn16[7:0]` -/
def hImm8 (h : BitVec 15) : BitVec 8 := h.extractLsb' 0 8
/-- Disp11, `insn16[11:1]` -/
def hDisp11 (h : BitVec 15) : BitVec 11 := h.extractLsb' 1 11
/-- the full register number of `push!` and `pop!`: H, then rD[3:0] (30_encoding.md R164) -/
def hStackD (h : BitVec 15) : BitVec 5 := h.extractLsb' 7 1 ++ h.extractLsb' 8 4
/-- the base register of `push!` and `pop!`, `insn16[6:4]` -/
def hStackA (h : BitVec 15) : BitVec 3 := h.extractLsb' 4 3
/-- the condition in `insn16[11:8]` -/
def hCond (h : BitVec 15) : Cond := Cond.ofBits (hD h)

/-- 16-bit OP = 000 (30_encoding.md R186). -/
def decodeRForm1 (h : BitVec 15) : Except Reject Instr :=
  match (hFunc4 h).toNat with
  | 0 => needZero (h.extractLsb' 4 8) .nop16
  | 1 => .ok (.mlfh16 (hD h) (hA h))
  | 2 => .ok (.mhfl16 (hD h) (hA h))
  | 3 => .ok (.mv16 (hD h) (hA h))
  | 4 => .ok (.brcond16 (hCond h) (hA h))
  | 5 => needZero (hA h) (.tcond16 (hCond h))
  | 8 => .ok (.sll16 (hD h) (hA h))
  | 9 => .ok (.addc16 (hD h) (hA h))
  | 10 => .ok (.srl16 (hD h) (hA h))
  | 11 => .ok (.sra16 (hD h) (hA h))
  | 12 => .ok (.brcondl16 (hCond h) (hA h))
  | _ => .error .undefinedCell

/-- 16-bit OP = 010 (30_encoding.md R186). -/
def decodeRForm2 (h : BitVec 15) : Except Reject Instr :=
  match (hFunc4 h).toNat with
  | 0 => .ok (.add16 (hD h) (hA h))
  | 1 => .ok (.sub16 (hD h) (hA h))
  | 2 => .ok (.neg16 (hD h) (hA h))
  | 3 => .ok (.cmp16 (hD h) (hA h))
  | 4 => .ok (.and16 (hD h) (hA h))
  | 5 => .ok (.or16 (hD h) (hA h))
  | 6 => .ok (.not16 (hD h) (hA h))
  | 7 => .ok (.xor16 (hD h) (hA h))
  | 8 => .ok (.lw16 (hD h) (hA h))
  | 9 => .ok (.lh16 (hD h) (hA h))
  | 10 => .ok (.pop16 (hStackD h) (hStackA h))
  | 11 => .ok (.lbu16 (hD h) (hA h))
  | 12 => .ok (.sw16 (hD h) (hA h))
  | 13 => .ok (.sh16 (hD h) (hA h))
  | 14 => .ok (.push16 (hStackD h) (hStackA h))
  | _ => .ok (.sb16 (hD h) (hA h))

/-- 16-bit OP = 110 (30_encoding.md R187). -/
def decodeIForm1a (h : BitVec 15) : Except Reject Instr :=
  match (hFunc3 h).toNat with
  | 0 => .ok (if h.getLsbD 7 then .subei16 (hD h) (hExp h) else .addei16 (hD h) (hExp h))
  | 1 => .ok (.slli16 (hD h) (hImm5 h))
  | 2 => needZero (hD h) (.sdbbp16 (hImm5 h))
  | 3 => .ok (.srli16 (hD h) (hImm5 h))
  | 4 => .ok (.bitclr16 (hD h) (hImm5 h))
  | 5 => .ok (.bitset16 (hD h) (hImm5 h))
  | 6 => .ok (.bittst16 (hD h) (hImm5 h))
  | _ => .ok (.bittgl16 (hD h) (hImm5 h))

/-- 16-bit OP = 111 (30_encoding.md R187). -/
def decodeIForm1b (h : BitVec 15) : Except Reject Instr :=
  match (hFunc3 h).toNat with
  | 0 => .ok (.lwp16 (hD h) (hImm5 h))
  | 1 => .ok (.lhp16 (hD h) (hImm5 h))
  | 3 => .ok (.lbup16 (hD h) (hImm5 h))
  | 4 => .ok (.swp16 (hD h) (hImm5 h))
  | 5 => .ok (.shp16 (hD h) (hImm5 h))
  | 7 => .ok (.sbp16 (hD h) (hImm5 h))
  | _ => .error .undefinedCell

/-- A 16-bit instruction, by the main opcode (30_encoding.md R185, R210). -/
def decode16 (h : BitVec 15) : Except Reject Instr :=
  match (hOp h).toNat with
  | 0 => decodeRForm1 h
  | 2 => decodeRForm2 h
  | 3 => .ok (if h.getLsbD 0 then .jl16 (hDisp11 h) else .j16 (hDisp11 h))
  | 4 => .ok (.bcond16 (hCond h) (hImm8 h))
  | 5 => .ok (.ldiu16 (hD h) (hImm8 h))
  | 6 => decodeIForm1a h
  | 7 => decodeIForm1b h
  | _ => .error .undefinedCell

/-- The decoder (30_encoding.md R210): total on every instruction code. -/
def decode : Code → Except Reject Instr
  | .w32 w => decode32 w
  | .w16 h => decode16 h

/-! ## The encoder -/

/-- Special-form (30_encoding.md R157): rD, rA, rB, 000, func6, CU. -/
def special (d a b : BitVec 5) (f : BitVec 6) (cu : BitVec 1) : BitVec 30 :=
  0#5 ++ d ++ a ++ b ++ 0#3 ++ f ++ cu
/-- the `syscall` variant of the Special-form: SPar15 in the three operand fields -/
def syscallForm (p : BitVec 15) : BitVec 30 := 0#5 ++ p ++ 0#3 ++ 1#6 ++ 0#1
/-- I-form (R158) -/
def iform (op : BitVec 5) (d : BitVec 5) (f : BitVec 3) (imm : BitVec 16) (cu : BitVec 1) : BitVec 30 :=
  op ++ d ++ f ++ imm ++ cu
/-- RI-form (R159) -/
def riform (op d a : BitVec 5) (imm : BitVec 14) (cu : BitVec 1) : BitVec 30 := op ++ d ++ a ++ imm ++ cu
/-- J-form (R155) -/
def jform (disp : BitVec 24) (lk : BitVec 1) : BitVec 30 := 2#5 ++ disp ++ lk
/-- BC-form (R156); bit 14 is written 0 -/
def bcform (c : Cond) (disp : BitVec 19) (lk : BitVec 1) : BitVec 30 :=
  4#5 ++ disp.extractLsb' 9 10 ++ 0#1 ++ c.toBits ++ disp.extractLsb' 0 9 ++ lk
/-- load, store and cache form with a 15-bit offset (R160) -/
def offsetForm (op d a : BitVec 5) (imm : BitVec 15) : BitVec 30 := op ++ d ++ a ++ imm
/-- RIX-form (R161) -/
def rixform (op d a : BitVec 5) (imm : BitVec 12) (f : BitVec 3) : BitVec 30 := op ++ d ++ a ++ imm ++ f
/-- CEINST form (R163) -/
def ceform (u1 a b u2 f : BitVec 5) : BitVec 30 := 28#5 ++ u1 ++ a ++ b ++ u2 ++ f
/-- CR-form (R162): rD, CR, 0000000, CR_OP, 00, II, 0, MI -/
def crform (d cr : BitVec 5) (crop : BitVec 3) (ii mi : BitVec 1) : BitVec 30 :=
  6#5 ++ d ++ cr ++ 0#7 ++ crop ++ 0#2 ++ ii ++ 0#1 ++ mi
/-- coprocessor form (R162): two registers, ten bits, CP#, Sub-OP -/
def copform (d a : BitVec 5) (x : BitVec 10) (cp : BitVec 2) (sub : BitVec 3) : BitVec 30 :=
  6#5 ++ d ++ a ++ x ++ cp ++ sub
/-- 16-bit R-form (R164) -/
def rform16 (op : BitVec 3) (d a f : BitVec 4) : BitVec 15 := op ++ d ++ a ++ f
/-- 16-bit R-form of `push!` and `pop!` (R164): rD[3:0], H, rA -/
def stackForm16 (d : BitVec 5) (a : BitVec 3) (f : BitVec 4) : BitVec 15 :=
  2#3 ++ d.extractLsb' 0 4 ++ d.extractLsb' 4 1 ++ a ++ f
/-- 16-bit I-form-1 (R164) -/
def iform16 (op : BitVec 3) (d : BitVec 4) (imm : BitVec 5) (f : BitVec 3) : BitVec 15 := op ++ d ++ imm ++ f
/-- 16-bit I-form-2 and BC-form (R164): a 4-bit field and eight bits -/
def wideForm16 (op : BitVec 3) (d : BitVec 4) (imm : BitVec 8) : BitVec 15 := op ++ d ++ imm
/-- 16-bit J-form (R164) -/
def jform16 (disp : BitVec 11) (lk : BitVec 1) : BitVec 15 := 3#3 ++ disp ++ lk

/-- The bit of a CU operand. -/
def bit (b : Bool) : BitVec 1 := BitVec.ofBool b

/-- The encoder: the code of an instruction, with 0 in the ignored fields of 30_encoding.md R153 (log 28). -/
def encode : Instr → Code
  | .add rd ra rb cu => .w32 (special rd ra rb 8#6 (bit cu))
  | .addc rd ra rb cu => .w32 (special rd ra rb 9#6 (bit cu))
  | .sub rd ra rb cu => .w32 (special rd ra rb 10#6 (bit cu))
  | .subc rd ra rb cu => .w32 (special rd ra rb 11#6 (bit cu))
  | .neg rd rb cu => .w32 (special rd 0#5 rb 15#6 (bit cu))
  | .cmp tc ra rb => .w32 (special (0#3 ++ tc.toBits) ra rb 12#6 1#1)
  | .cmpz tc ra => .w32 (special (0#3 ++ tc.toBits) ra 0#5 13#6 1#1)
  | .and rd ra rb cu => .w32 (special rd ra rb 16#6 (bit cu))
  | .or rd ra rb cu => .w32 (special rd ra rb 17#6 (bit cu))
  | .xor rd ra rb cu => .w32 (special rd ra rb 19#6 (bit cu))
  | .not rd ra cu => .w32 (special rd ra 0#5 18#6 (bit cu))
  | .bitclr rd ra bn => .w32 (special rd ra bn 20#6 1#1)
  | .bitset rd ra bn => .w32 (special rd ra bn 21#6 1#1)
  | .bittgl rd ra bn => .w32 (special rd ra bn 23#6 1#1)
  | .bittst ra bn => .w32 (special 0#5 ra bn 22#6 1#1)
  | .nop => .w32 (special 0#5 0#5 0#5 0#6 0#1)
  | .sll rd ra rb cu => .w32 (special rd ra rb 24#6 (bit cu))
  | .slli rd ra sa cu => .w32 (special rd ra sa 56#6 (bit cu))
  | .srl rd ra rb cu => .w32 (special rd ra rb 26#6 (bit cu))
  | .srli rd ra sa cu => .w32 (special rd ra sa 58#6 (bit cu))
  | .sra rd ra rb cu => .w32 (special rd ra rb 27#6 (bit cu))
  | .srai rd ra sa cu => .w32 (special rd ra sa 59#6 (bit cu))
  | .rol rd ra rb cu => .w32 (special rd ra rb 30#6 (bit cu))
  | .roli rd ra sa cu => .w32 (special rd ra sa 62#6 (bit cu))
  | .ror rd ra rb cu => .w32 (special rd ra rb 28#6 (bit cu))
  | .rori rd ra sa cu => .w32 (special rd ra sa 60#6 (bit cu))
  | .rolc rd ra rb => .w32 (special rd ra rb 31#6 1#1)
  | .rolic rd ra sa => .w32 (special rd ra sa 63#6 1#1)
  | .rorc rd ra rb => .w32 (special rd ra rb 29#6 1#1)
  | .roric rd ra sa => .w32 (special rd ra sa 61#6 1#1)
  | .extsb rd ra cu => .w32 (special rd ra 0#5 44#6 (bit cu))
  | .extsh rd ra cu => .w32 (special rd ra 0#5 45#6 (bit cu))
  | .extzb rd ra cu => .w32 (special rd ra 0#5 46#6 (bit cu))
  | .extzh rd ra cu => .w32 (special rd ra 0#5 47#6 (bit cu))
  | .mvcond rd ra ec => .w32 (special rd ra (0#1 ++ ec.toBits) 43#6 0#1)
  | .mfsr rd srn => .w32 (special rd 0#5 srn 40#6 0#1)
  | .mtsr ra srn => .w32 (special 0#5 ra srn 41#6 0#1)
  | .tcond ec => .w32 (special 0#5 0#5 (0#1 ++ ec.toBits) 42#6 0#1)
  | .brcond ra bc => .w32 (special 0#5 ra (0#1 ++ bc.toBits) 4#6 0#1)
  | .brcondl ra bc => .w32 (special 0#5 ra (0#1 ++ bc.toBits) 4#6 1#1)
  | .lcb ra => .w32 (special 0#5 ra 0#5 48#6 0#1)
  | .lcw rd ra => .w32 (special rd ra 0#5 49#6 0#1)
  | .lce rd ra => .w32 (special rd ra 0#5 51#6 0#1)
  | .scb rd ra => .w32 (special rd ra 0#5 52#6 0#1)
  | .scw rd ra => .w32 (special rd ra 0#5 53#6 0#1)
  | .sce ra => .w32 (special 0#5 ra 0#5 55#6 0#1)
  | .alw rd ra => .w32 (special rd ra 0#5 6#6 0#1)
  | .asw rd ra => .w32 (special rd ra 0#5 7#6 0#1)
  | .mul ra rb => .w32 (special 0#5 ra rb 32#6 0#1)
  | .mulu ra rb => .w32 (special 0#5 ra rb 33#6 0#1)
  | .div ra rb => .w32 (special 0#5 ra rb 34#6 0#1)
  | .divu ra rb => .w32 (special 0#5 ra rb 35#6 0#1)
  | .mfcel rd => .w32 (special rd 0#5 1#5 36#6 0#1)
  | .mfceh rd => .w32 (special rd 0#5 2#5 36#6 0#1)
  | .mfcehl rd ra => .w32 (special rd ra 3#5 36#6 0#1)
  | .mtcel rd => .w32 (special rd 0#5 1#5 37#6 0#1)
  | .mtceh rd => .w32 (special rd 0#5 2#5 37#6 0#1)
  | .mtcehl rd ra => .w32 (special rd ra 3#5 37#6 0#1)
  | .syscall spar => .w32 (syscallForm spar)
  | .trapcond swp ec => .w32 (special 0#5 swp (0#1 ++ ec.toBits) 2#6 0#1)
  | .sdbbp code => .w32 (special 0#5 code 0#5 3#6 0#1)
  | .pflush => .w32 (special 0#5 0#5 0#5 5#6 0#1)
  | .addi rd imm cu => .w32 (iform 1#5 rd 0#3 imm (bit cu))
  | .addis rd imm cu => .w32 (iform 5#5 rd 0#3 imm (bit cu))
  | .cmpi rd imm => .w32 (iform 1#5 rd 2#3 imm 1#1)
  | .andi rd imm cu => .w32 (iform 1#5 rd 4#3 imm (bit cu))
  | .andis rd imm cu => .w32 (iform 5#5 rd 4#3 imm (bit cu))
  | .ori rd imm cu => .w32 (iform 1#5 rd 5#3 imm (bit cu))
  | .oris rd imm cu => .w32 (iform 5#5 rd 5#3 imm (bit cu))
  | .ldi rd imm => .w32 (iform 1#5 rd 6#3 imm 0#1)
  | .ldis rd imm => .w32 (iform 5#5 rd 6#3 imm 0#1)
  | .addri rd ra imm cu => .w32 (riform 8#5 rd ra imm (bit cu))
  | .andri rd ra imm cu => .w32 (riform 12#5 rd ra imm (bit cu))
  | .orri rd ra imm cu => .w32 (riform 13#5 rd ra imm (bit cu))
  | .j disp => .w32 (jform disp 0#1)
  | .jl disp => .w32 (jform disp 1#1)
  | .bcond bc disp => .w32 (bcform bc disp 0#1)
  | .bcondl bc disp => .w32 (bcform bc disp 1#1)
  | .lw rd ra imm => .w32 (offsetForm 16#5 rd ra imm)
  | .lwPre rd ra imm => .w32 (rixform 3#5 rd ra imm 0#3)
  | .lwPost rd ra imm => .w32 (rixform 7#5 rd ra imm 0#3)
  | .lh rd ra imm => .w32 (offsetForm 17#5 rd ra imm)
  | .lhPre rd ra imm => .w32 (rixform 3#5 rd ra imm 1#3)
  | .lhPost rd ra imm => .w32 (rixform 7#5 rd ra imm 1#3)
  | .lhu rd ra imm => .w32 (offsetForm 18#5 rd ra imm)
  | .lhuPre rd ra imm => .w32 (rixform 3#5 rd ra imm 2#3)
  | .lhuPost rd ra imm => .w32 (rixform 7#5 rd ra imm 2#3)
  | .lb rd ra imm => .w32 (offsetForm 19#5 rd ra imm)
  | .lbPre rd ra imm => .w32 (rixform 3#5 rd ra imm 3#3)
  | .lbPost rd ra imm => .w32 (rixform 7#5 rd ra imm 3#3)
  | .lbu rd ra imm => .w32 (offsetForm 22#5 rd ra imm)
  | .lbuPre rd ra imm => .w32 (rixform 3#5 rd ra imm 6#3)
  | .lbuPost rd ra imm => .w32 (rixform 7#5 rd ra imm 6#3)
  | .sw rd ra imm => .w32 (offsetForm 20#5 rd ra imm)
  | .swPre rd ra imm => .w32 (rixform 3#5 rd ra imm 4#3)
  | .swPost rd ra imm => .w32 (rixform 7#5 rd ra imm 4#3)
  | .sh rd ra imm => .w32 (offsetForm 21#5 rd ra imm)
  | .shPre rd ra imm => .w32 (rixform 3#5 rd ra imm 5#3)
  | .shPost rd ra imm => .w32 (rixform 7#5 rd ra imm 5#3)
  | .sb rd ra imm => .w32 (offsetForm 23#5 rd ra imm)
  | .sbPre rd ra imm => .w32 (rixform 3#5 rd ra imm 7#3)
  | .sbPost rd ra imm => .w32 (rixform 7#5 rd ra imm 7#3)
  | .cache op ra imm => .w32 (offsetForm 24#5 op ra imm)
  | .ceinst usd1 ra rb usd2 func5 => .w32 (ceform usd1 ra rb usd2 func5)
  | .mtcr rd crn => .w32 (crform rd crn 0#3 0#1 0#1)
  | .mfcr rd crn => .w32 (crform rd crn 0#3 0#1 1#1)
  | .rte => .w32 (crform 0#5 0#5 4#3 1#1 0#1)
  | .drte => .w32 (crform 0#5 0#5 5#3 1#1 0#1)
  | .sleep => .w32 (crform 0#5 0#5 6#3 1#1 0#1)
  | .stlb => .w32 (crform 0#5 0#5 0#3 1#1 0#1)
  | .mftlb => .w32 (crform 0#5 0#5 1#3 1#1 0#1)
  | .mtptlb => .w32 (crform 0#5 0#5 2#3 1#1 0#1)
  | .mtrtlb => .w32 (crform 0#5 0#5 3#3 1#1 0#1)
  | .mtc1 rd cra => .w32 (copform rd cra 0#10 1#2 0#3)
  | .mfc1 rd cra => .w32 (copform rd cra 0#10 1#2 1#3)
  | .mtcc1 rd cra => .w32 (copform rd cra 0#10 1#2 6#3)
  | .mfcc1 rd cra => .w32 (copform rd cra 0#10 1#2 7#3)
  | .ldc1 rd cra imm => .w32 (copform rd cra imm 1#2 2#3)
  | .stc1 rd cra imm => .w32 (copform rd cra imm 1#2 3#3)
  | .cop1 crd cra crb code => .w32 (copform crd cra (crb ++ code) 1#2 4#3)
  | .mtc2 rd cra => .w32 (copform rd cra 0#10 2#2 0#3)
  | .mfc2 rd cra => .w32 (copform rd cra 0#10 2#2 1#3)
  | .mtcc2 rd cra => .w32 (copform rd cra 0#10 2#2 6#3)
  | .mfcc2 rd cra => .w32 (copform rd cra 0#10 2#2 7#3)
  | .ldc2 rd cra imm => .w32 (copform rd cra imm 2#2 2#3)
  | .stc2 rd cra imm => .w32 (copform rd cra imm 2#2 3#3)
  | .cop2 crd cra crb code => .w32 (copform crd cra (crb ++ code) 2#2 4#3)
  | .mtc3 rd cra => .w32 (copform rd cra 0#10 3#2 0#3)
  | .mfc3 rd cra => .w32 (copform rd cra 0#10 3#2 1#3)
  | .mtcc3 rd cra => .w32 (copform rd cra 0#10 3#2 6#3)
  | .mfcc3 rd cra => .w32 (copform rd cra 0#10 3#2 7#3)
  | .ldc3 rd cra imm => .w32 (copform rd cra imm 3#2 2#3)
  | .stc3 rd cra imm => .w32 (copform rd cra imm 3#2 3#3)
  | .cop3 crd cra crb code => .w32 (copform crd cra (crb ++ code) 3#2 4#3)
  | .add16 rd ra => .w16 (rform16 2#3 rd ra 0#4)
  | .addc16 rd ra => .w16 (rform16 0#3 rd ra 9#4)
  | .sub16 rd ra => .w16 (rform16 2#3 rd ra 1#4)
  | .cmp16 rd ra => .w16 (rform16 2#3 rd ra 3#4)
  | .neg16 rd ra => .w16 (rform16 2#3 rd ra 2#4)
  | .mv16 rd ra => .w16 (rform16 0#3 rd ra 3#4)
  | .and16 rd ra => .w16 (rform16 2#3 rd ra 4#4)
  | .or16 rd ra => .w16 (rform16 2#3 rd ra 5#4)
  | .xor16 rd ra => .w16 (rform16 2#3 rd ra 7#4)
  | .not16 rd ra => .w16 (rform16 2#3 rd ra 6#4)
  | .sll16 rd ra => .w16 (rform16 0#3 rd ra 8#4)
  | .srl16 rd ra => .w16 (rform16 0#3 rd ra 10#4)
  | .sra16 rd ra => .w16 (rform16 0#3 rd ra 11#4)
  | .lw16 rd ra => .w16 (rform16 2#3 rd ra 8#4)
  | .lh16 rd ra => .w16 (rform16 2#3 rd ra 9#4)
  | .lbu16 rd ra => .w16 (rform16 2#3 rd ra 11#4)
  | .sw16 rd ra => .w16 (rform16 2#3 rd ra 12#4)
  | .sh16 rd ra => .w16 (rform16 2#3 rd ra 13#4)
  | .sb16 rd ra => .w16 (rform16 2#3 rd ra 15#4)
  | .mhfl16 rd ra => .w16 (rform16 0#3 rd ra 2#4)
  | .mlfh16 rd ra => .w16 (rform16 0#3 rd ra 1#4)
  | .nop16 => .w16 (rform16 0#3 0#4 0#4 0#4)
  | .tcond16 ec => .w16 (rform16 0#3 ec.toBits 0#4 5#4)
  | .brcond16 bc ra => .w16 (rform16 0#3 bc.toBits ra 4#4)
  | .brcondl16 bc ra => .w16 (rform16 0#3 bc.toBits ra 12#4)
  | .push16 rd ra => .w16 (stackForm16 rd ra 14#4)
  | .pop16 rd ra => .w16 (stackForm16 rd ra 10#4)
  | .addei16 rd exp => .w16 (iform16 6#3 rd (0#1 ++ exp) 0#3)
  | .subei16 rd exp => .w16 (iform16 6#3 rd (1#1 ++ exp) 0#3)
  | .bitclr16 rd bn => .w16 (iform16 6#3 rd bn 4#3)
  | .bitset16 rd bn => .w16 (iform16 6#3 rd bn 5#3)
  | .bittgl16 rd bn => .w16 (iform16 6#3 rd bn 7#3)
  | .bittst16 rd bn => .w16 (iform16 6#3 rd bn 6#3)
  | .slli16 rd sa => .w16 (iform16 6#3 rd sa 1#3)
  | .srli16 rd sa => .w16 (iform16 6#3 rd sa 3#3)
  | .lwp16 rd imm => .w16 (iform16 7#3 rd imm 0#3)
  | .lhp16 rd imm => .w16 (iform16 7#3 rd imm 1#3)
  | .lbup16 rd imm => .w16 (iform16 7#3 rd imm 3#3)
  | .swp16 rd imm => .w16 (iform16 7#3 rd imm 4#3)
  | .shp16 rd imm => .w16 (iform16 7#3 rd imm 5#3)
  | .sbp16 rd imm => .w16 (iform16 7#3 rd imm 7#3)
  | .sdbbp16 code => .w16 (iform16 6#3 0#4 code 2#3)
  | .ldiu16 rd imm => .w16 (wideForm16 5#3 rd imm)
  | .j16 disp => .w16 (jform16 disp 0#1)
  | .jl16 disp => .w16 (jform16 disp 1#1)
  | .bcond16 bc disp => .w16 (wideForm16 4#3 bc.toBits disp)

/-- The instruction the decoder reads from an instruction of the opcode table whose bits are `w`: `nbits` is 32 for an
`insn[29:0]` and 16 for an `insn16[14:0]`; a number with a bit above those is no instruction. The bits are laid out in a
memory word with their P-bits (30_encoding.md R142), and the word is split and decoded as the machine does it. -/
def decodeTableWord (nbits w : Nat) : Option Instr :=
  let code? : Option Code :=
    if nbits = 32 then (if w < 2 ^ 30 then some (.w32 (BitVec.ofNat 30 w)) else none)
    else if nbits = 16 then (if w < 2 ^ 15 then some (.w16 (BitVec.ofNat 15 w)) else none)
    else none
  match code? with
  | none => none
  | some c =>
    match firstCode (wordOf c) with
    | none => none
    | some d =>
      match decode d with
      | .ok i => some i
      | .error _ => none

end Sys2Proof
end

