-- ==== Sys2Proof/Config.lean ====
section
/-!
DEFINITION. The configuration of a core (spec/00_scope.md R8 to R10): what the pins, the system around the core and the
readings the spec leaves selectable fix. A configuration is plain data; it is a field of `Machine.State` that no step
changes, so that a statement about every state is a statement about every configuration. The values the spec leaves
open altogether are the opaque constants at the end of this file: nothing can be proved about which value they are.
-/
namespace Sys2Proof

/-- What an access is: an instruction fetch, a load or a store (20_memory.md R104). -/
inductive Access where
  | fetch | load | store
  deriving DecidableEq, Repr

/-- A range of addresses. -/
structure Region where
  /-- the lowest address -/
  base : Nat
  /-- the number of bytes -/
  size : Nat
  deriving DecidableEq, Repr

/-- A range of addresses for which the platform answers a bus error to one kind of access (20_memory.md R104). -/
structure BusErrorRegion where
  region : Region
  kind : Access
  deriving DecidableEq, Repr

/-- The registers of one external coprocessor (10_state.md R54): 32 data and 32 control registers. -/
structure CopRegs where
  data : Vector Word 32
  ctrl : Vector Word 32
  deriving DecidableEq, Repr, Inhabited

/-- What a custom-engine extension writes (44_ce_cop.md R440): each USD field may be the index of a destination register.
Whether it may write CEH and CEL is not stated (log 25). -/
structure CeResult where
  /-- the value for the general register whose index USD1 is, if USD1 is a destination -/
  usd1 : Option Word
  /-- the value for the general register whose index USD2 is, if USD2 is a destination -/
  usd2 : Option Word
  /-- new values of CEH and CEL -/
  ceHigh : Option Word
  ceLow : Option Word
  deriving DecidableEq, Repr, Inhabited

/-- The parameters of spec/00_scope.md R8, R9 and R10. -/
structure Config where
  /-- `BIG_ENDIAN`, the pin big_en (R8, 10_state.md R34) -/
  bigEndian : Bool
  /-- `ICACHE_BYTES` (R8) -/
  icacheBytes : Nat
  /-- `DCACHE_BYTES` (R8) -/
  dcacheBytes : Nat
  /-- `LINE_WORDS` = 8 for the I-cache; the D-cache line has 4 words (20_memory.md R120) -/
  icacheEightWords : Bool
  /-- `PROBE_EN` (R8, 60_exceptions.md R705) -/
  probeEn : Bool
  /-- `COP_PRESENT`: bit z - 1 for coprocessor z (R9) -/
  copPresent : BitVec 3
  /-- `CE_EXT_PRESENT` with the func5 values the extension implements; empty when there is none (R9, 44_ce_cop.md R440) -/
  ceFuncs : List (BitVec 5)
  /-- `LIM_PRESENT` (R9) -/
  limPresent : Bool
  /-- `LDM_PRESENT` (R9) -/
  ldmPresent : Bool
  /-- `KERNEL_SPACE` (R10, 20_memory.md R100) -/
  kernelSpace : List Region
  /-- `CACHEABLE` (R10, 20_memory.md R101) -/
  cacheable : List Region
  /-- `BUS_ERROR` (R10, 20_memory.md R104) -/
  busErrors : List BusErrorRegion
  /-- `ICACHE_COHERENT` (R10, 20_memory.md R118); the spec gives it no default (log 7) -/
  icacheCoherent : Bool
  /-- `LE_FETCH_HALFWORD_SWAP` (R10, 20_memory.md R87) -/
  leFetchSwap : Bool
  /-- `TRAP_PRIVILEGED` (R10, 45_system.md R462) -/
  trapPrivileged : Bool
  /-- `BITOP_FLAGS_TRM` (R10, 40_arith_logic.md R262) -/
  bitopFlagsTrm : Bool
  /-- `BL_LINK_UNCONDITIONAL` (R10, 42_branch_jump.md R331) -/
  blLinkUncond : Bool
  /-- `CUR_ASID` (R10, 60_exceptions.md R709) -/
  curAsid : Byte
  deriving DecidableEq, Repr

/-- The default configuration: the defaults of 00_scope.md R8 to R10, of 20_memory.md R100 and R104 and of the table at the
end of 92_eei_decisions.md. `N_IBRK` and `N_DBRK` are the lengths of the breakpoint lists of the state. DESIGN CHOICE
(log 7): the spec gives no default for `ICACHE_COHERENT`, here false, nor for `CACHEABLE`, here nowhere. -/
def Config.default : Config where
  bigEndian := true
  icacheBytes := 4096
  dcacheBytes := 4096
  icacheEightWords := false
  probeEn := false
  copPresent := 0#3
  ceFuncs := []
  limPresent := false
  ldmPresent := false
  kernelSpace := [⟨0x80000000, 0x80000000⟩]
  cacheable := []
  busErrors := []
  icacheCoherent := false
  leFetchSwap := false
  trapPrivileged := false
  bitopFlagsTrm := false
  blLinkUncond := false
  curAsid := 0#8

/-- `NORM_PREV`, the version and revision of the processor (10_state.md R48): the spec gives no value, and none can be
proved of this constant (log 7). -/
opaque Config.normPrev : BitVec 24

/-- The free one-bit values, one for every value of the counter `freeCtr` of the state (log 9). -/
opaque Config.freeBit : Nat → Bool

/-- The free 32-bit values, one for every value of the counter `freeCtr` of the state (log 9). -/
opaque Config.freeWord : Nat → Word

/-- The numbers of buffered stores that leave the write buffer by themselves after a step, one for every value of the counter
`freeCtr` of the state (log 60). -/
opaque Config.drained : Nat → Nat

/-- `CopOp(z, code20)` of 44_ce_cop.md R441: what a present coprocessor does to its own registers (log 25). -/
opaque Config.copOp : CopNum → BitVec 20 → CopRegs → CopRegs

/-- `CeOp` of 44_ce_cop.md R440: what an implemented extension writes, from func5, USD1, USD2, the two register numbers
and the two register values (log 25). -/
opaque Config.ceOp :
  BitVec 5 → BitVec 5 → BitVec 5 → BitVec 5 → BitVec 5 → Word → Word → CeResult

end Sys2Proof
end

