-- ==== Sys2Proof/Machine/State.lean ====
section
/-!
DEFINITION. The state of an S+core7 as plain data: every register of spec/10_state.md, the memory-mapped breakpoint
registers of 60_exceptions.md R704, the hidden state of 10_state.md R55, memory, the caches, and the model's own fields
(INVENTORY.md lists them); the reasons a step stops; and the state right after reset.
-/
namespace Sys2Proof.Machine

/-! ## Flags and control registers -/

/-- One level of the condition flags (10_state.md R26). -/
structure Flags where
  t : Bool
  n : Bool
  z : Bool
  c : Bool
  v : Bool
  deriving DecidableEq, Repr

/-- All five flags clear. -/
def Flags.zero : Flags := ⟨false, false, false, false, false⟩

/-- The Condition register cr1: a three-level stack of flags (10_state.md R38). -/
structure CondReg where
  /-- Tc, Nc, Zc, Cc, Vc -/
  cur : Flags
  /-- Ts, Ns, Zs, Cs, Vs -/
  sav : Flags
  /-- Tb, Nb, Zb, Cb, Vb -/
  bak : Flags
  deriving DecidableEq, Repr

/-- The stored fields of PSR, cr0 (10_state.md R33); Endian is the configuration pin. -/
structure Psr where
  cu : BitVec 3
  cra : Bool
  im : BitVec 8
  umb : Bool
  ieb : Bool
  ums : Bool
  ies : Bool
  umc : Bool
  iec : Bool
  deriving DecidableEq, Repr

/-- The stored fields of ECR, cr2 (10_state.md R40); IP[7:2] is the view of the pin IRQ (R41). -/
structure Ecr where
  /-- IP[1:0], the software interrupt requests -/
  softIp : BitVec 2
  ce : BitVec 2
  excCode : BitVec 5
  deriving DecidableEq, Repr

/-- EXCPVec, cr3 (10_state.md R42). -/
structure ExcpVec where
  base : BitVec 16
  vo : Bool
  deriving DecidableEq, Repr

/-- CCR, cr4 (10_state.md R43); MMU reads 0. -/
structure Ccr where
  dpfb : Bool
  ipfb : Bool
  wback : Bool
  rdBpDis : Bool
  nopMode : Bool
  bten : Bool
  ldm : Bool
  lim : Bool
  wb : Bool
  deriving DecidableEq, Repr

/-- A saved program counter with its M bit: EPC, cr5, and DEPC, cr30 (10_state.md R45, R50). -/
structure SavedPc where
  /-- bits 31:1 -/
  addr : BitVec 31
  /-- bit 0 -/
  m : Bool
  deriving DecidableEq, Repr

/-- The seven debug exceptions (60_exceptions.md R680). -/
inductive DebugExc where
  | dss | dint | dib | dbp | ddbla | ddbs | ddblv
  deriving DecidableEq, Repr

/-- The cause bits of DREG: bits 6 to 0 (10_state.md R49). -/
structure DebugCause where
  ddblv : Bool
  dint : Bool
  dib : Bool
  ddbs : Bool
  ddbla : Bool
  dbp : Bool
  dss : Bool
  deriving DecidableEq, Repr

/-- The stored fields of DREG, cr29 (10_state.md R49); ProbeEn is the configuration, IBusEP reads 0, DBusEP is a view of
`busErrPending` (60_exceptions.md R702). -/
structure Dreg where
  iceDis : Bool
  initOk : Bool
  dm : Bool
  dExcCode : BitVec 5
  ssEn : Bool
  cause : DebugCause
  deriving DecidableEq, Repr

/-! ## The breakpoint unit -/

/-- One instruction breakpoint: IBA, IBM, IBASID, IBC (60_exceptions.md R707, R708). -/
structure InstrBreak where
  addr : Word
  mask : Word
  asid : Byte
  asidUse : Bool
  be : Bool
  deriving DecidableEq, Repr

/-- One data breakpoint: DBA, DBM, DBASID, DBV, DBC (60_exceptions.md R710, R711). -/
structure DataBreak where
  addr : Word
  mask : Word
  asid : Byte
  value : Word
  asidUse : Bool
  bai : BitVec 4
  sz : BitVec 2
  noSz : Bool
  blm : BitVec 4
  noSb : Bool
  noLb : Bool
  be : Bool
  deriving DecidableEq, Repr

/-! ## Memory and caches -/

/-- Memory: the bytes that differ from what an unlisted address reads as, by rising address (20_memory.md R80). -/
abbrev Memory := List Host.Cell

/-- A valid line of a cache (20_memory.md R120). -/
structure CacheLine where
  /-- the address of the line's first byte: its tag and index -/
  base : Nat
  /-- the way: false is way 0 -/
  way1 : Bool
  /-- the Lock bit, of way 0 only -/
  lock : Bool
  /-- the Dirty bit, of the D-cache only -/
  dirty : Bool
  /-- the bytes, the lowest address first -/
  data : List Byte
  deriving DecidableEq, Repr

/-- A cache: its valid lines, and the sets whose MRU bit is asserted, which is that way 0 was used last (20_memory.md R120,
R127: the bit stands in the way-0 tag and is asserted by a prefetch with lock, which ends in way 0). -/
structure Cache where
  lines : List CacheLine
  mru : List Nat
  deriving DecidableEq, Repr

/-- A cache without a valid line, every MRU bit deasserted: what 10 and 18 leave (20_memory.md R127). -/
def Cache.empty : Cache := ⟨[], []⟩

/-- One word of the write buffer: the bytes of one store that wait for memory, each with its address (10_state.md R55,
20_memory.md R112). DESIGN CHOICE (log 22): stores are not merged, so a word holds the bytes of one store only. -/
structure BufferedStore where
  cells : List (Word × Byte)
  deriving DecidableEq, Repr

/-! ## The outside world -/

/-- The inputs of one step (60_exceptions.md R670, R643, R644): the pins, and the reports of the external units. -/
structure Pins where
  /-- IRQ(t), 0 to 63 -/
  irq : BitVec 6
  /-- NMI(t): a falling edge -/
  nmi : Bool
  /-- DINT(t) -/
  dint : Bool
  /-- the reset input -/
  reset : Bool
  /-- coprocessor z reports an exception: bit z - 1 -/
  copReport : BitVec 3
  /-- the custom-engine extension reports an exception -/
  ceReport : Bool
  deriving DecidableEq, Repr

/-- Every input inactive. -/
def Pins.idle : Pins := ⟨0#6, false, false, false, 0#3, false⟩

/-! ## The state -/

/-- The state of the machine. -/
structure State where
  /-- r0..r31 (10_state.md R20) -/
  gpr : Vector Word 32
  /-- the program counter (10_state.md R22) -/
  pc : Word
  /-- CEH (10_state.md R24) -/
  ceh : Word
  /-- CEL (10_state.md R24) -/
  cel : Word
  /-- CNT, sr0 (10_state.md R25) -/
  cnt : Word
  /-- LCR, sr1 (10_state.md R25) -/
  lcr : Word
  /-- SCR, sr2 (10_state.md R25) -/
  scr : Word
  /-- PSR, cr0 -/
  psr : Psr
  /-- Condition, cr1 -/
  cond : CondReg
  /-- ECR, cr2 -/
  ecr : Ecr
  /-- EXCPVec, cr3 -/
  excpVec : ExcpVec
  /-- CCR, cr4 -/
  ccr : Ccr
  /-- EPC, cr5 -/
  epc : SavedPc
  /-- EMA, cr6 (10_state.md R46) -/
  ema : Word
  /-- LIMPFN, cr15 (10_state.md R47) -/
  limpfn : Word
  /-- LDMPFN, cr16 (10_state.md R47) -/
  ldmpfn : Word
  /-- DREG, cr29 -/
  dreg : Dreg
  /-- DEPC, cr30 -/
  depc : SavedPc
  /-- DSAVE, cr31 (10_state.md R51) -/
  dsave : Word
  /-- the instruction breakpoints; their number is N_IBRK -/
  ibrk : List InstrBreak
  /-- the data breakpoints; their number is N_DBRK -/
  dbrk : List DataBreak
  /-- coprocessor 1 (10_state.md R54) -/
  cop1 : CopRegs
  /-- coprocessor 2 -/
  cop2 : CopRegs
  /-- coprocessor 3 -/
  cop3 : CopRegs
  /-- ATbit (10_state.md R28) -/
  atbit : Bool
  /-- the core sleeps (45_system.md R476) -/
  sleeping : Bool
  /-- `stepped` (60_exceptions.md R685) -/
  stepped : Bool
  /-- `ddblv_pending` (60_exceptions.md R688) -/
  ddblvPending : Bool
  /-- `nmi_pending` (60_exceptions.md R671) -/
  nmiPending : Bool
  /-- a bus error of a buffered store is pending (60_exceptions.md R702) -/
  busErrPending : Bool
  /-- memory (20_memory.md R80) -/
  mem : Memory
  /-- the write buffer, the oldest store first; at most four (10_state.md R55, 20_memory.md R112, R120) -/
  wbuf : List BufferedStore
  /-- the instruction cache (20_memory.md R120) -/
  icache : Cache
  /-- the data cache (20_memory.md R120) -/
  dcache : Cache
  /-- the MODEL's own: the instruction being executed stands in a PCE word (30_encoding.md R150) -/
  pce : Bool
  /-- the MODEL's own: this step has taken an exception (60_exceptions.md R633) -/
  raised : Bool
  /-- the MODEL's own: the number of the next free value (log 9) -/
  freeCtr : Nat
  /-- the MODEL's own: the inputs of this step and the steps to come; idle when the list ends (log 8) -/
  inputs : List Pins
  /-- the MODEL's own: the configuration (log 7) -/
  cfg : Config
  deriving DecidableEq, Repr

/-! ## Why a step stops -/

/-- The faults: accesses, possible in debug mode only, to which the spec gives no behaviour. -/
inductive Fault where
  /-- An access of debug mode to 0xFFF00000..0xFFFEFFFF, which no source assigns (20_memory.md R102). Raised by every fetch,
  load and store. Safe: the machine stops where the spec's treatment is `refuse`. -/
  | unassignedDebugAddress
  /-- An access of debug mode to dmseg when no probe is there and the platform signals no bus error
  (60_exceptions.md R703). Raised by every fetch, load and store. Safe: nothing is known of what such an access does. -/
  | noProbe
  /-- An access to drseg that is not word sized or names no register (60_exceptions.md R694, R704). Raised by every fetch,
  load and store. Safe: the spec's treatment is `refuse`. -/
  | drsegAccess
  deriving DecidableEq, Repr

/-- The refusals: instructions without a meaning. -/
inductive Refusal where
  /-- An instruction the model does not have yet. Raised by `exec` only. Safe: the machine stops. -/
  | notModelled (mnemonic : String)
  /-- `mv` with EC = 14, which the spec calls reserved (30_encoding.md R203). Raised by `execMvcond`. Safe: the machine stops. -/
  | reservedMoveCondition
  /-- A fill, refill or write-back of a local memory that is present (20_memory.md R130): the address's encoding of page and
  size is not given. Raised by `execCache`. Safe: the machine stops. -/
  | localMemory
  deriving DecidableEq, Repr

/-- The outcome of a step or of an instruction. -/
abbrev Result := Host.Outcome State Fault Refusal

/-! ## Reset -/

/-- The value the model names for a register whose reset value the spec leaves undefined (log 1, log 3, log 5). -/
def unstatedReset : Word := 0#32

/-- A coprocessor after reset: the spec gives its registers no value (log 5). -/
def CopRegs.reset : CopRegs := ⟨Vector.replicate 32 unstatedReset, Vector.replicate 32 unstatedReset⟩

/-- An instruction breakpoint after reset: BE is 0, the rest undefined (60_exceptions.md R707, R708, log 3). -/
def InstrBreak.reset : InstrBreak := ⟨unstatedReset, unstatedReset, 0#8, false, false⟩

/-- A data breakpoint after reset: SZ is 11, NoSZ 1, BE 0, the rest undefined (60_exceptions.md R710, R711, log 3). -/
def DataBreak.reset : DataBreak where
  addr := unstatedReset
  mask := unstatedReset
  asid := 0#8
  value := unstatedReset
  asidUse := false
  bai := 0#4
  sz := 3#2
  noSz := true
  blm := 0#4
  noSb := false
  noLb := false
  be := false

/-- The machine right after reset (10_state.md R60, 70_reset_and_hazards.md R720), with the default configuration, empty
memory and inactive inputs. -/
def State.reset : State where
  gpr := Vector.replicate 32 unstatedReset
  pc := 0x9F000000#32
  ceh := unstatedReset
  cel := unstatedReset
  cnt := unstatedReset
  lcr := unstatedReset
  scr := unstatedReset
  psr := ⟨0#3, false, 0#8, false, false, false, false, false, false⟩
  cond := ⟨Flags.zero, Flags.zero, Flags.zero⟩
  ecr := ⟨0#2, 0#2, 0#5⟩
  excpVec := ⟨0x9F00#16, false⟩
  ccr := ⟨false, false, false, false, false, false, false, false, false⟩
  epc := ⟨0#31, false⟩
  ema := 0#32
  limpfn := unstatedReset
  ldmpfn := unstatedReset
  dreg := ⟨false, false, false, 0#5, false, ⟨false, false, false, false, false, false, false⟩⟩
  depc := ⟨0#31, false⟩
  dsave := unstatedReset
  ibrk := [InstrBreak.reset, InstrBreak.reset]
  dbrk := [DataBreak.reset, DataBreak.reset]
  cop1 := CopRegs.reset
  cop2 := CopRegs.reset
  cop3 := CopRegs.reset
  atbit := false
  sleeping := false
  stepped := false
  ddblvPending := false
  nmiPending := false
  busErrPending := false
  mem := []
  wbuf := []
  icache := Cache.empty
  dcache := Cache.empty
  pce := false
  raised := false
  freeCtr := 0
  inputs := []
  cfg := Config.default

end Sys2Proof.Machine
end

