-- ==== Sys2Proof/Machine/Ops.lean ====
section
/-!
DEFINITION. The named operations over registers, the program counter and the modes, and taking an exception and returning
from one (60_exceptions.md R650 to R682, 45_system.md R470, R472). Operations over memory are in Machine/Access.lean.
-/
namespace Sys2Proof.Machine

/-! ## General registers, flags, program counter -/

/-- Read a general register: all 32 are ordinary (10_state.md R20). -/
def State.r (s : State) (i : BitVec 5) : Word := s.gpr[i.toNat]'(i.isLt)

/-- Write a general register (10_state.md R20). -/
def State.setR (s : State) (i : BitVec 5) (v : Word) : State := { s with gpr := s.gpr.set i.toNat v (i.isLt) }

/-- The register a 4-bit field of group g0 names: r0..r15 (46_16bit.md R511). -/
def g0 (i : BitVec 4) : BitVec 5 := 0#1 ++ i

/-- The register a 4-bit field of group g1 names: r16..r31 (46_16bit.md R511). -/
def g1 (i : BitVec 4) : BitVec 5 := 1#1 ++ i

/-- The base register a 3-bit field names: r0..r7 (30_encoding.md R164). -/
def gBase (i : BitVec 3) : BitVec 5 := 0#2 ++ i

/-- The base pointer BP, r2 (10_state.md R21). -/
def bpReg : BitVec 5 := 2#5

/-- The link register LR, r3 (10_state.md R21). -/
def linkReg : BitVec 5 := 3#5

/-- The current condition flags (10_state.md R26). -/
def State.flags (s : State) : Flags := s.cond.cur

/-- Replace the current condition flags; the saved levels stay. -/
def State.setFlags (s : State) (f : Flags) : State := { s with cond := { s.cond with cur := f } }

/-- `pc & 0xFFFF_FFFC`: the address of the word that holds an address. -/
def wordAddr (a : Word) : Word := a &&& 0xFFFFFFFC#32

/-- `npc`, the sequential successor of an instruction (30_encoding.md R150). -/
def State.npc (s : State) : Width → Word
  | .w32 => s.pc + 4#32
  | .w16 => if s.pce then wordAddr s.pc + 4#32 else s.pc + 2#32

/-- Go on with the sequential successor (10_state.md R23). -/
def State.advance (s : State) (w : Width) : State := { s with pc := s.npc w }

/-- Go on at a target. -/
def State.jump (s : State) (t : Word) : State := { s with pc := t }

/-- `pc + ilen`, the value a linking instruction writes (30_encoding.md R150). -/
def State.linkValue (s : State) (w : Width) : Word := s.pc + w.bytes

/-- An instruction is done: the state goes on with the sequential successor. -/
def done (w : Width) (s : State) : Result := .next (s.advance w)

/-! ## Free values -/

/-- The free value has been used; the next one is another (log 9). -/
def State.spend (s : State) : State := { s with freeCtr := s.freeCtr + 1 }

/-- A free bit (log 9). -/
def State.freeBit (s : State) : Bool := Config.freeBit s.freeCtr

/-- A free word (log 9). -/
def State.freeWord (s : State) : Word := Config.freeWord s.freeCtr

/-- Two registers written by one instruction: when both are one register its value is free (00_scope.md R14,
43_load_store.md R363, 44_ce_cop.md R433, 46_16bit.md R561; log 13). -/
def State.setR2 (s : State) (i : BitVec 5) (v : Word) (j : BitVec 5) (w : Word) : State :=
  if i = j then s.spend.setR i s.freeWord else (s.setR i v).setR j w

/-! ## Inputs and modes -/

/-- The inputs of this step (60_exceptions.md R670). -/
def State.pins (s : State) : Pins := s.inputs.headD Pins.idle

/-- User mode: DM = 0 and UMc = 1 (10_state.md R29). -/
def State.userMode (s : State) : Bool := !s.dreg.dm && s.psr.umc

/-- Debug mode: DM = 1 (10_state.md R29). -/
def State.debugMode (s : State) : Bool := s.dreg.dm

/-- `CRok` (45_system.md R460): control-register instructions are executable. -/
def State.crOk (s : State) : Bool := s.dreg.dm || !s.psr.umc || s.psr.cra

/-! ## Normal exceptions -/

/-- The normal exceptions of 60_exceptions.md R631, with what each records besides its code. -/
inductive Exc where
  | nmi
  | adelInstr (ema : Word)
  | buselInstr
  | pel (ema : Word)
  | syscall
  | ccu (ce : BitVec 2)
  | ri
  | trap
  | adelData (ema : Word)
  | ades (ema : Word)
  | cee
  | cpe (ce : BitVec 2)
  | buselData
  | swi
  | interrupt (level : BitVec 6)
  deriving DecidableEq, Repr

/-- Exc_code (60_exceptions.md R631). -/
def Exc.code : Exc → BitVec 5
  | .nmi => 1#5
  | .adelInstr _ => 2#5
  | .buselInstr => 5#5
  | .pel _ => 6#5
  | .syscall => 7#5
  | .ccu _ => 8#5
  | .ri => 9#5
  | .trap => 10#5
  | .adelData _ => 11#5
  | .ades _ => 12#5
  | .cee => 16#5
  | .cpe _ => 17#5
  | .buselData => 18#5
  | .swi => 19#5
  | .interrupt _ => 20#5

/-- What the exception writes to EMA, if anything (60_exceptions.md R650). -/
def Exc.ema? : Exc → Option Word
  | .adelInstr a | .pel a | .adelData a | .ades a => some a
  | _ => none

/-- What the exception writes to ECR.CE, if anything (60_exceptions.md R650). -/
def Exc.ce? : Exc → Option (BitVec 2)
  | .ccu z | .cpe z => some z
  | _ => none

/-- EPC.M is any value for this exception (60_exceptions.md R650). -/
def Exc.mFree : Exc → Bool
  | .adelInstr _ | .buselInstr | .pel _ | .nmi | .interrupt _ | .swi => true
  | _ => false

/-- `Badr` (60_exceptions.md R655). -/
def State.badr (s : State) : Word := s.excpVec.base ++ 0#16

/-- The vector of a normal exception (60_exceptions.md R655). -/
def State.vector (s : State) : Exc → Word
  | .interrupt n => s.badr + 0x200#32 + (if s.excpVec.vo then 16#32 else 4#32) * n.setWidth 32
  | _ => s.badr + 0x200#32

/-- The push of the mode and interrupt-enable stack (60_exceptions.md R651). -/
def Psr.push (p : Psr) : Psr :=
  { p with umb := p.ums, ieb := p.ies, ums := p.umc, ies := p.iec, umc := false, iec := false }

/-- The push of the flag stack; the current flags stay (60_exceptions.md R651). -/
def CondReg.push (c : CondReg) : CondReg := ⟨c.cur, c.cur, c.sav⟩

/-- The pop of the mode and interrupt-enable stack (45_system.md R470). -/
def Psr.pop (p : Psr) : Psr := { p with umc := p.ums, iec := p.ies, ums := p.umb, ies := p.ieb }

/-- The pop of the flag stack (45_system.md R470). -/
def CondReg.pop (c : CondReg) : CondReg := ⟨c.sav, c.bak, c.bak⟩

/-- M of a saved pc: the width of the instruction, or free (60_exceptions.md R650, log 12). -/
def savedM (s : State) (free : Bool) (w : Width) : Bool := if free then s.freeBit else w == .w16

/-- The counter of free values after a saved M. -/
def savedCtr (s : State) (free : Bool) : Nat := if free then s.freeCtr + 1 else s.freeCtr

/-- `enter(X, pc)` (60_exceptions.md R650): the entry to a normal exception outside debug mode. -/
def enterNormal (x : Exc) (w : Width) (s : State) : State :=
  { s with
    psr := s.psr.push
    cond := s.cond.push
    ecr := { s.ecr with excCode := x.code, ce := x.ce?.getD s.ecr.ce }
    ema := x.ema?.getD s.ema
    epc := ⟨s.pc.extractLsb' 1 31, savedM s x.mFree w⟩
    sleeping := false
    pc := s.vector x
    raised := true
    freeCtr := savedCtr s x.mFree }

/-! ## Debug exceptions -/

/-- The debug vector (60_exceptions.md R681). -/
def State.debugVector (s : State) : Word :=
  if s.cfg.probeEn && !s.dreg.iceDis then 0xFF000000#32 else s.badr + 0x1FC#32

/-- The cause bits of DREG with the bit of one debug exception set (60_exceptions.md R680). -/
def DebugExc.cause (y : DebugExc) : DebugCause where
  ddblv := y == .ddblv
  dint := y == .dint
  dib := y == .dib
  ddbs := y == .ddbs
  ddbla := y == .ddbla
  dbp := y == .dbp
  dss := y == .dss

/-- The cause bits of DREG all clear (60_exceptions.md R682). -/
def DebugCause.none : DebugCause := ⟨false, false, false, false, false, false, false⟩

/-- DEPC.M is any value for this debug exception (60_exceptions.md R680). -/
def DebugExc.mFree : DebugExc → Bool
  | .dbp | .ddbla | .ddbs => false
  | .dss | .dint | .dib | .ddblv => true

/-- `debug_enter(Y, pc)` (60_exceptions.md R680). -/
def debugEnter (y : DebugExc) (w : Width) (s : State) : State :=
  { s with
    depc := ⟨s.pc.extractLsb' 1 31, savedM s y.mFree w⟩
    dreg := { s.dreg with dm := true, cause := y.cause }
    sleeping := false
    stepped := false
    ddblvPending := false
    pc := s.debugVector
    raised := true
    freeCtr := savedCtr s y.mFree }

/-- `debug_reenter(X)` (60_exceptions.md R682): a normal exception in debug mode. -/
def debugReenter (x : Exc) (w : Width) (s : State) : State :=
  { s with
    depc := ⟨s.pc.extractLsb' 1 31, savedM s x.mFree w⟩
    dreg := { s.dreg with dm := true, cause := DebugCause.none, dExcCode := x.code }
    pc := s.debugVector
    raised := true
    freeCtr := savedCtr s x.mFree }

/-- TAKING AN EXCEPTION: the one operation every normal exception goes through. Outside debug mode it is the entry of
60_exceptions.md R650, in debug mode the re-entry of R682. `w` is the width of the instruction at `pc`. -/
def takeException (x : Exc) (w : Width) (s : State) : State :=
  if s.dreg.dm then debugReenter x w s else enterNormal x w s

/-- `raise X`: the instruction is abandoned and the exception taken (00_scope.md R13). -/
def raise (x : Exc) (w : Width) (s : State) : Result := .next (takeException x w s)

/-- A control-register instruction: CCU with CE = 00 unless `CRok` (60_exceptions.md R640). -/
def whenCrOk (s : State) (body : Result) : Result := if s.crOk then body else raise (.ccu 0#2) .w32 s

/-! ## Returns -/

/-- `rte` (45_system.md R470): pop both stacks, clear ATbit, go to EPC. -/
def returnFromException (s : State) : State :=
  { s with psr := s.psr.pop, cond := s.cond.pop, atbit := false, pc := s.epc.addr ++ 0#1 }

/-- `drte` (45_system.md R472): leave debug mode, go to DEPC. -/
def returnFromDebug (s : State) : State :=
  { s with dreg := { s.dreg with dm := false }, pc := s.depc.addr ++ 0#1 }

/-! ## The reset input -/

/-- The Reset exception (70_reset_and_hazards.md R720): every register to its reset value. Memory, the cache arrays, the
coprocessors and the platform's inputs are outside the reset rule (R721, log 29); what still waits in the write buffer is lost
(R720, log 60). -/
def resetInput (s : State) : State :=
  { State.reset with
    ibrk := s.ibrk.map (fun _ => InstrBreak.reset)
    dbrk := s.dbrk.map (fun _ => DataBreak.reset)
    cop1 := s.cop1
    cop2 := s.cop2
    cop3 := s.cop3
    mem := s.mem
    icache := s.icache
    dcache := s.dcache
    freeCtr := s.freeCtr
    inputs := s.inputs
    cfg := s.cfg }

end Sys2Proof.Machine
end

