-- ==== Sys2Proof/Machine/Operands.lean ====
section
/-!
DEFINITION. The operand forms: how every immediate and displacement becomes a word (30_encoding.md R165, R166), the
addressing modes (43_load_store.md R361, 46_16bit.md R548), and the sign and zero extension of loaded values.
-/
namespace Sys2Proof.Machine

/-- `SImm`: a field sign-extended to 32 bits (30_encoding.md R165). -/
def sext {n : Nat} (v : BitVec n) : Word := v.signExtend 32

/-- `Imm`: a field zero-extended to 32 bits (30_encoding.md R165). -/
def zext {n : Nat} (v : BitVec n) : Word := v.setWidth 32

/-- Imm16 in bits 31:16, the low half zero (30_encoding.md R165, I-form-2). -/
def immShifted (v : BitVec 16) : Word := v ++ 0#16

/-- `2^Exp4`, the operand of `addei!` and `subei!` (30_encoding.md R165). -/
def expImm (e : BitVec 4) : Word := 1#32 <<< e.toNat

/-- Imm10 scaled by 4, the offset of `ldc` and `stc` (30_encoding.md R165). -/
def imm10Offset (v : BitVec 10) : Word := sext (v ++ 0#2)

/-- `sext_8`: the low byte of a word, sign-extended (41_shift_ext_move.md R301). -/
def sext8 (w : Word) : Word := sext (w.setWidth 8)

/-- `sext_16`: the low halfword of a word, sign-extended (41_shift_ext_move.md R302). -/
def sext16 (w : Word) : Word := sext (w.setWidth 16)

/-- `zext_8`: the low byte of a word, zero-extended (41_shift_ext_move.md R303). -/
def zext8 (w : Word) : Word := zext (w.setWidth 8)

/-- `zext_16`: the low halfword of a word, zero-extended (41_shift_ext_move.md R304). -/
def zext16 (w : Word) : Word := zext (w.setWidth 16)

/-- One bit as a word (43_load_store.md R399). -/
def boolWord (b : Bool) : Word := if b then 1#32 else 0#32

/-! ## Addresses -/

/-- Offset addressing, and the address of `cache` (43_load_store.md R361). -/
def State.offsetAddr (s : State) (ra : BitVec 5) (imm : BitVec 15) : Word := s.r ra + sext imm

/-- The base after an indexed access: pre-index also uses it as the address (43_load_store.md R361). -/
def State.indexedBase (s : State) (ra : BitVec 5) (imm : BitVec 12) : Word := s.r ra + sext imm

/-- Base-pointer addressing, the 5-bit offset scaled by the access size (46_16bit.md R548). -/
def State.bpAddr (s : State) (imm : BitVec 5) (scale : Nat) : Word := s.r bpReg + (zext imm <<< scale)

/-- The address of `ldc` and `stc` (44_ce_cop.md R447). -/
def State.copAddr (s : State) (rd : BitVec 5) (imm : BitVec 10) : Word := s.r rd + imm10Offset imm

/-- The address of `push!` (46_16bit.md R560). -/
def State.pushAddr (s : State) (ra : BitVec 3) : Word := s.r (gBase ra) - 4#32

/-! ## Jump and branch targets (30_encoding.md R166) -/

/-- `j`, `jl`: the high seven bits of the pc are kept. -/
def jumpTarget (pc : Word) (disp : BitVec 24) : Word := pc.extractLsb' 25 7 ++ disp ++ 0#1

/-- `j!`, `jl!`: the high twenty bits of the pc are kept. -/
def jumpTarget16 (pc : Word) (disp : BitVec 11) : Word := pc.extractLsb' 12 20 ++ disp ++ 0#1

/-- `b<cond>`, `b<cond>l`. -/
def branchTarget (pc : Word) (disp : BitVec 19) : Word := pc + sext (disp ++ 0#1)

/-- `b<cond>!`. -/
def branchTarget16 (pc : Word) (disp : BitVec 8) : Word := pc + sext (disp ++ 0#1)

/-! ## Conditions -/

/-- `cond(c)` on the current flags and CNT (30_encoding.md R170, R171). -/
def State.condHolds (s : State) (c : Cond) : Bool :=
  let f := s.flags
  match c with
  | .cs => f.c
  | .cc => !f.c
  | .gtu => f.c && !f.z
  | .leu => !f.c || f.z
  | .eq => f.z
  | .ne => !f.z
  | .gt => !f.z && f.n == f.v
  | .le => f.z || f.n != f.v
  | .ge => f.n == f.v
  | .lt => f.n != f.v
  | .mi => f.n
  | .pl => !f.n
  | .vs => f.v
  | .vc => !f.v
  | .cnz => s.cnt != 0#32
  | .al => true

/-! ## Load and store combine (43_load_store.md R389) -/

/-- `byte`: the offset of the address in its word, counted from the other end in little endian. -/
def combineByte (be : Bool) (a : Word) : Nat :=
  if be then (a.setWidth 2).toNat else 3 - (a.setWidth 2).toNat

/-- The low `4 - byte` bytes of one word above the high `byte` bytes of another (R391). -/
def combineLoad (byte : Nat) (old w : Word) : Word := (old <<< (8 * byte)) ||| (w >>> (32 - 8 * byte))

/-- The high `byte` bytes of one word above the high `4 - byte` bytes of another (R396). -/
def combineStore (byte : Nat) (old d : Word) : Word :=
  ((old >>> (32 - 8 * byte)) <<< (32 - 8 * byte)) ||| (d >>> (8 * byte))

/-- Rotate right by `byte` bytes: the next SCR (R395). -/
def rotateBytes (byte : Nat) (d : Word) : Word := d.rotateRight (8 * byte)

end Sys2Proof.Machine
end

