-- ==== Sys2Proof/Machine/Flags.lean ====
section
/-!
DEFINITION. The arithmetic, shift and rotate results and the flag classes of 30_encoding.md R173 (40_arith_logic.md R222,
R223, R262; 41_shift_ext_move.md R281, R290, R300).
-/
namespace Sys2Proof.Machine

/-! ## Arithmetic -/

/-- A result with its carry and overflow. -/
structure AluOut where
  res : Word
  c : Bool
  v : Bool
  deriving DecidableEq, Repr

/-- An exact signed result does not fit 32 bits (40_arith_logic.md R222). -/
def signedOverflow (x : Int) : Bool := decide (x < -(2 ^ 31)) || decide (2 ^ 31 ≤ x)

/-- `a + b + cin` with its carry and signed overflow (40_arith_logic.md R222). -/
def addWith (a b : Word) (cin : Bool) : AluOut where
  res := a + b + boolWord cin
  c := decide (2 ^ 32 ≤ a.toNat + b.toNat + cin.toNat)
  v := signedOverflow (a.toInt + b.toInt + (cin.toNat : Int))

/-- `a - b - bin`; the carry is "not borrow" (40_arith_logic.md R222). -/
def subWith (a b : Word) (bin : Bool) : AluOut where
  res := a - b - boolWord bin
  c := decide (b.toNat + bin.toNat ≤ a.toNat)
  v := signedOverflow (a.toInt - b.toInt - (bin.toNat : Int))

/-- The arithmetic class: N, Z, C, V (40_arith_logic.md R222). -/
def Flags.arith (f : Flags) (o : AluOut) : Flags :=
  { f with n := o.res.msb, z := o.res == 0#32, c := o.c, v := o.v }

/-- The logical class: N, Z (40_arith_logic.md R223). -/
def Flags.logic (f : Flags) (res : Word) : Flags := { f with n := res.msb, z := res == 0#32 }

/-- The extension class: N (41_shift_ext_move.md R300). -/
def Flags.ext (f : Flags) (res : Word) : Flags := { f with n := res.msb }

/-- The shift class: N, Z, C (41_shift_ext_move.md R281). -/
def Flags.shift (f : Flags) (res : Word) (c : Bool) : Flags := { f with n := res.msb, z := res == 0#32, c := c }

/-- The rotate class: N, C; a rotate by 0 leaves C (41_shift_ext_move.md R290). -/
def Flags.rotate (f : Flags) (res : Word) (c : Option Bool) : Flags := { f with n := res.msb, c := c.getD f.c }

/-- The bit-operation class: N, Z of the tested bit; with `BITOP_FLAGS_TRM` Z of the result and C of the tested bit
(40_arith_logic.md R262). -/
def Flags.bitop (f : Flags) (trm : Bool) (res : Word) (b : Bool) : Flags :=
  if trm then { f with n := res.msb, z := res == 0#32, c := b } else { f with n := res.msb, z := !b }

/-- What a compare does to T (30_encoding.md R172, 40_arith_logic.md R238). -/
def Flags.test (f : Flags) : TestCond → Flags
  | .teq => { f with t := f.z }
  | .tmi => { f with t := f.n }
  | .reserved => f
  | .none => f

/-! ## Shifts and rotates -/

/-- The amount of a register shift or rotate: the low five bits (41_shift_ext_move.md R281). -/
def shiftAmount (w : Word) : BitVec 5 := w.setWidth 5

/-- A shifted value with the last bit shifted out, which does not exist for a shift by 0 (41_shift_ext_move.md R281). -/
structure ShiftOut where
  res : Word
  out : Option Bool
  deriving DecidableEq, Repr

/-- Left shift (41_shift_ext_move.md R282). -/
def shiftLeft (a : Word) (n : BitVec 5) : ShiftOut :=
  ⟨a <<< n.toNat, if n = 0#5 then none else some (a.getLsbD (32 - n.toNat))⟩

/-- Logical right shift (41_shift_ext_move.md R284). -/
def shiftRight (a : Word) (n : BitVec 5) : ShiftOut :=
  ⟨a >>> n.toNat, if n = 0#5 then none else some (a.getLsbD (n.toNat - 1))⟩

/-- Arithmetic right shift (41_shift_ext_move.md R286). -/
def shiftRightArith (a : Word) (n : BitVec 5) : ShiftOut :=
  ⟨a.sshiftRight n.toNat, if n = 0#5 then none else some (a.getLsbD (n.toNat - 1))⟩

/-- Rotate left (41_shift_ext_move.md R291). -/
def rotLeft (a : Word) (n : BitVec 5) : ShiftOut :=
  ⟨a.rotateLeft n.toNat, if n = 0#5 then none else some (a.getLsbD (32 - n.toNat))⟩

/-- Rotate right (41_shift_ext_move.md R293). -/
def rotRight (a : Word) (n : BitVec 5) : ShiftOut :=
  ⟨a.rotateRight n.toNat, if n = 0#5 then none else some (a.getLsbD (n.toNat - 1))⟩

/-- A 33-bit value `{C, a}` rotated left (41_shift_ext_move.md R295). -/
def rotLeftCarry (a : Word) (c : Bool) (n : BitVec 5) : ShiftOut :=
  let x : BitVec 33 := (BitVec.ofBool c ++ a).rotateLeft n.toNat
  ⟨x.setWidth 32, if n = 0#5 then none else some x.msb⟩

/-- A 33-bit value `{C, a}` rotated right (41_shift_ext_move.md R297). -/
def rotRightCarry (a : Word) (c : Bool) (n : BitVec 5) : ShiftOut :=
  let x : BitVec 33 := (BitVec.ofBool c ++ a).rotateRight n.toNat
  ⟨x.setWidth 32, if n = 0#5 then none else some x.msb⟩

/-! ## Writing a result -/

/-- Update the flags if the instruction's CU bit is 1 (40_arith_logic.md R221). -/
def State.setFlagsIf (s : State) (cu : Bool) (f : Flags) : State := if cu then s.setFlags f else s

/-- An arithmetic result: register, then the flags of its class. -/
def State.putArith (s : State) (rd : BitVec 5) (o : AluOut) (cu : Bool) : State :=
  (s.setR rd o.res).setFlagsIf cu (s.flags.arith o)

/-- A logical result. -/
def State.putLogic (s : State) (rd : BitVec 5) (res : Word) (cu : Bool) : State :=
  (s.setR rd res).setFlagsIf cu (s.flags.logic res)

/-- An extension's result. -/
def State.putExt (s : State) (rd : BitVec 5) (res : Word) (cu : Bool) : State :=
  (s.setR rd res).setFlagsIf cu (s.flags.ext res)

/-- A bit operation's result. -/
def State.putBitop (s : State) (rd : BitVec 5) (res : Word) (b : Bool) : State :=
  (s.setR rd res).setFlags (s.flags.bitop s.cfg.bitopFlagsTrm res b)

/-- A shift's result; C after a flag-setting shift by 0 is a free value (41_shift_ext_move.md R281, log 10). -/
def State.putShift (s : State) (rd : BitVec 5) (o : ShiftOut) (cu : Bool) : State :=
  if cu then
    match o.out with
    | some c => (s.setR rd o.res).setFlags (s.flags.shift o.res c)
    | none => ((s.setR rd o.res).setFlags (s.flags.shift o.res s.freeBit)).spend
  else s.setR rd o.res

/-- A rotate's result. -/
def State.putRotate (s : State) (rd : BitVec 5) (o : ShiftOut) (cu : Bool) : State :=
  (s.setR rd o.res).setFlagsIf cu (s.flags.rotate o.res o.out)

end Sys2Proof.Machine
end

