-- ==== Sys2Proof/Machine/Arith.lean ====
section
/-!
DEFINITION. The 32-bit arithmetic and compare instructions (40_arith_logic.md R230 to R240).
-/
namespace Sys2Proof.Machine

/-- `add` (40_arith_logic.md R230). -/
def execAdd (rd : BitVec 5) (ra : BitVec 5) (rb : BitVec 5) (cu : Bool) (s : State) : Result :=
  done .w32 (s.putArith rd (addWith (s.r ra) (s.r rb) false) cu)

/-- `addc`: the carry is added whether or not flags are written (40_arith_logic.md R231). -/
def execAddc (rd : BitVec 5) (ra : BitVec 5) (rb : BitVec 5) (cu : Bool) (s : State) : Result :=
  done .w32 (s.putArith rd (addWith (s.r ra) (s.r rb) s.flags.c) cu)

/-- `addi` (40_arith_logic.md R232). -/
def execAddi (rd : BitVec 5) (imm : BitVec 16) (cu : Bool) (s : State) : Result :=
  done .w32 (s.putArith rd (addWith (s.r rd) (sext imm) false) cu)

/-- `addis` (40_arith_logic.md R233). -/
def execAddis (rd : BitVec 5) (imm : BitVec 16) (cu : Bool) (s : State) : Result :=
  done .w32 (s.putArith rd (addWith (s.r rd) (immShifted imm) false) cu)

/-- `addri` (40_arith_logic.md R234). -/
def execAddri (rd : BitVec 5) (ra : BitVec 5) (imm : BitVec 14) (cu : Bool) (s : State) : Result :=
  done .w32 (s.putArith rd (addWith (s.r ra) (sext imm) false) cu)

/-- `sub` (40_arith_logic.md R235). -/
def execSub (rd : BitVec 5) (ra : BitVec 5) (rb : BitVec 5) (cu : Bool) (s : State) : Result :=
  done .w32 (s.putArith rd (subWith (s.r ra) (s.r rb) false) cu)

/-- `subc`: the borrow is the complement of C (40_arith_logic.md R236). -/
def execSubc (rd : BitVec 5) (ra : BitVec 5) (rb : BitVec 5) (cu : Bool) (s : State) : Result :=
  done .w32 (s.putArith rd (subWith (s.r ra) (s.r rb) (!s.flags.c)) cu)

/-- `neg` (40_arith_logic.md R237). -/
def execNeg (rd : BitVec 5) (rb : BitVec 5) (cu : Bool) (s : State) : Result :=
  done .w32 (s.putArith rd (subWith 0#32 (s.r rb) false) cu)

/-- What a compare leaves: the flags of the subtraction, then T (40_arith_logic.md R238). -/
def State.compare (s : State) (a b : Word) (tc : TestCond) : State :=
  s.setFlags ((s.flags.arith (subWith a b false)).test tc)

/-- `cmp` (40_arith_logic.md R238). -/
def execCmp (tc : TestCond) (ra : BitVec 5) (rb : BitVec 5) (s : State) : Result :=
  done .w32 (s.compare (s.r ra) (s.r rb) tc)

/-- `cmpz` (40_arith_logic.md R239). -/
def execCmpz (tc : TestCond) (ra : BitVec 5) (s : State) : Result := done .w32 (s.compare (s.r ra) 0#32 tc)

/-- `cmpi.c`: no TC field (40_arith_logic.md R240). -/
def execCmpi (rd : BitVec 5) (imm : BitVec 16) (s : State) : Result := done .w32 (s.compare (s.r rd) (sext imm) .none)

end Sys2Proof.Machine
end

