-- ==== Sys2Proof/Machine/Branch.lean ====
section
/-!
DEFINITION. The jump and branch instructions of both widths (42_branch_jump.md R335 to R346, 46_16bit.md R542 to R546).
-/
namespace Sys2Proof.Machine

/-- Write the link register (42_branch_jump.md R331). -/
def State.linkIf (s : State) (link : Bool) (w : Width) : State := if link then s.setR linkReg (s.linkValue w) else s

/-- A taken branch with the condition CNZ decrements CNT (42_branch_jump.md R332). -/
def State.countDown (s : State) (c : Cond) : State := if c = .cnz then { s with cnt := s.cnt - 1#32 } else s

/-- A conditional transfer to a target computed beforehand: the link is written when the branch is taken, or always with
`BL_LINK_UNCONDITIONAL` (42_branch_jump.md R331, R332). -/
def branchTo (w : Width) (c : Cond) (link : Bool) (target : Word) (s : State) : Result :=
  if s.condHolds c then .next (((s.linkIf link w).countDown c).jump target)
  else done w (s.linkIf (link && s.cfg.blLinkUncond) w)

/-- `j` (42_branch_jump.md R335). -/
def execJ (disp : BitVec 24) (s : State) : Result := .next (s.jump (jumpTarget s.pc disp))

/-- `jl` (42_branch_jump.md R336). -/
def execJl (disp : BitVec 24) (s : State) : Result := .next ((s.linkIf true .w32).jump (jumpTarget s.pc disp))

/-- `b<cond>` (42_branch_jump.md R340). -/
def execBcond (bc : Cond) (disp : BitVec 19) (s : State) : Result := branchTo .w32 bc false (branchTarget s.pc disp) s

/-- `b<cond>l` (42_branch_jump.md R341). -/
def execBcondl (bc : Cond) (disp : BitVec 19) (s : State) : Result := branchTo .w32 bc true (branchTarget s.pc disp) s

/-- `br<cond>` (42_branch_jump.md R345). -/
def execBrcond (ra : BitVec 5) (bc : Cond) (s : State) : Result := branchTo .w32 bc false (s.r ra) s

/-- `br<cond>l`: the target is read before r3 is written (42_branch_jump.md R346). -/
def execBrcondl (ra : BitVec 5) (bc : Cond) (s : State) : Result := branchTo .w32 bc true (s.r ra) s

/-- `j!` (46_16bit.md R542). -/
def execJ16 (disp : BitVec 11) (s : State) : Result := .next (s.jump (jumpTarget16 s.pc disp))

/-- `jl!` (46_16bit.md R543). -/
def execJl16 (disp : BitVec 11) (s : State) : Result := .next ((s.linkIf true .w16).jump (jumpTarget16 s.pc disp))

/-- `b<cond>!` (46_16bit.md R544). -/
def execBcond16 (bc : Cond) (disp : BitVec 8) (s : State) : Result :=
  branchTo .w16 bc false (branchTarget16 s.pc disp) s

/-- `br<cond>!` (46_16bit.md R545). -/
def execBrcond16 (bc : Cond) (ra : BitVec 4) (s : State) : Result := branchTo .w16 bc false (s.r (g0 ra)) s

/-- `br<cond>l!` (46_16bit.md R546). -/
def execBrcondl16 (bc : Cond) (ra : BitVec 4) (s : State) : Result := branchTo .w16 bc true (s.r (g0 ra)) s

end Sys2Proof.Machine
end

