-- ==== Sys2Proof/Machine/Memory.lean ====
section
/-!
DEFINITION. Memory as a list of cells in one canonical form (20_memory.md R80, R84): addresses strictly rising, no cell
equal to what an unlisted address reads as.
-/
namespace Sys2Proof.Machine

/-- What an unlisted address reads as: the spec gives memory no contents after reset (10_state.md R60, log 4). -/
def Memory.unlisted : Byte := 0#8

/-- The byte at an address. -/
def Memory.get : Memory → Nat → Byte
  | [], _ => Memory.unlisted
  | (b, v) :: m, a => if a = b then v else Memory.get m a

/-- A cell in front of a memory, unless it is what an unlisted address reads as. -/
def Memory.cell (a : Nat) (v : Byte) (m : Memory) : Memory :=
  if v = Memory.unlisted then m else (a, v) :: m

/-- Write one byte, keeping the canonical form. -/
def Memory.set : Memory → Nat → Byte → Memory
  | [], a, v => Memory.cell a v []
  | (b, w) :: m, a, v =>
    if a < b then Memory.cell a v ((b, w) :: m)
    else if a = b then Memory.cell a v m
    else (b, w) :: Memory.set m a v

/-- Write bytes at rising addresses. -/
def Memory.setAll : Memory → Nat → List Byte → Memory
  | m, _, [] => m
  | m, a, v :: vs => Memory.setAll (Memory.set m a v) (a + 1) vs

/-- The bytes at `n` rising addresses. -/
def Memory.getAll (m : Memory) : Nat → Nat → List Byte
  | _, 0 => []
  | a, n + 1 => Memory.get m a :: Memory.getAll m (a + 1) n

/-- Every address of the list is above `a`, and the list is canonical from there on. -/
def Memory.wfAbove : Nat → Memory → Bool
  | _, [] => true
  | a, (b, v) :: m => decide (a < b) && decide (v ≠ Memory.unlisted) && Memory.wfAbove b m

/-- The canonical form: addresses strictly rising, no cell equal to what an unlisted address reads as. -/
def Memory.wf : Memory → Bool
  | [] => true
  | (b, v) :: m => decide (v ≠ Memory.unlisted) && Memory.wfAbove b m

end Sys2Proof.Machine
end

