-- ==== Sys2Proof/Machine/Cache.lean ====
section
/-!
DEFINITION. The cache arrays (20_memory.md R120) and what is done to a line (R127): lookup, refill, invalidate, write-out,
flush. A cache lists its valid lines only.
-/
namespace Sys2Proof.Machine

/-- The shape of a cache: bytes in a line and number of sets (20_memory.md R120). -/
structure Geometry where
  lineBytes : Nat
  sets : Nat
  deriving DecidableEq, Repr

/-- The address of the first byte of the line that holds `a`. -/
def Geometry.base (g : Geometry) (a : Nat) : Nat := a / g.lineBytes * g.lineBytes

/-- The set that the line of `a` belongs to. -/
def Geometry.set (g : Geometry) (a : Nat) : Nat := a / g.lineBytes % g.sets

/-- The first valid line at a base address: a hit (20_memory.md R122). -/
def findLine : List CacheLine → Nat → Option CacheLine
  | [], _ => none
  | l :: ls, b => if l.base = b then some l else findLine ls b

/-- The byte a cache holds for an address. -/
def Cache.byte? (c : Cache) (g : Geometry) (a : Nat) : Option Byte :=
  match findLine c.lines (g.base a) with
  | none => none
  | some l => l.data[a % g.lineBytes]?

/-- Change the first line at a base address. -/
def mapLine (f : CacheLine → CacheLine) : List CacheLine → Nat → List CacheLine
  | [], _ => []
  | l :: ls, b => if l.base = b then f l :: ls else l :: mapLine f ls b

/-- Write one byte of a line. -/
def CacheLine.setByte (l : CacheLine) (off : Nat) (v : Byte) (markDirty : Bool) : CacheLine :=
  { l with data := l.data.set off v, dirty := l.dirty || markDirty }

/-- Set the MRU bit of a set to a way: asserted for way 0 (20_memory.md R127). -/
def Cache.mark (c : Cache) (set : Nat) (way1 : Bool) : Cache :=
  { c with mru := if way1 then c.mru.filter (· ≠ set) else set :: c.mru.filter (· ≠ set) }

/-- The lines of a set in a way. -/
def CacheLine.inWay (l : CacheLine) (g : Geometry) (set : Nat) (way1 : Bool) : Bool :=
  decide (g.set l.base = set) && (l.way1 == way1)

/-- The way to be replaced in a set: the one that was not used last, never a locked way 0 (20_memory.md R120, R127). -/
def Cache.victim (c : Cache) (g : Geometry) (set : Nat) : Bool :=
  if set ∈ c.mru then true else c.lines.any fun l => l.inWay g set false && l.lock

/-- Memory after a line has been written back if it is dirty. -/
def writeBack (m : Memory) (l : CacheLine) : Memory := if l.dirty then Memory.setAll m l.base l.data else m

/-- Memory after the dirty ones of some lines have been written back. -/
def writeBackAll (m : Memory) (ls : List CacheLine) : Memory := ls.foldl writeBack m

/-- Empty the lines that `p` selects, writing dirty ones back. -/
def Cache.evict (c : Cache) (m : Memory) (p : CacheLine → Bool) : Cache × Memory :=
  ({ c with lines := c.lines.filter (fun l => !p l) }, writeBackAll m (c.lines.filter p))

/-- A clean line read from memory. -/
def freshLine (m : Memory) (g : Geometry) (a : Nat) (way1 lock : Bool) : CacheLine :=
  ⟨g.base a, way1, lock, false, Memory.getAll m (g.base a) g.lineBytes⟩

/-- Replace what stands in a way by a line read from memory, dirty data written back first. -/
def Cache.replace (c : Cache) (m : Memory) (g : Geometry) (a : Nat) (way1 lock : Bool) : Cache × Memory :=
  let e := c.evict m (fun l => l.inWay g (g.set a) way1)
  (({ e.1 with lines := freshLine e.2 g a way1 lock :: e.1.lines }).mark (g.set a) way1, e.2)

/-- A read of a cacheable address (read allocate): a hit marks the way as used, a miss fills a line (20_memory.md R120). -/
def Cache.readFill (c : Cache) (m : Memory) (g : Geometry) (a : Nat) : Cache × Memory :=
  match findLine c.lines (g.base a) with
  | some l => (c.mark (g.set a) l.way1, m)
  | none => c.replace m g a (c.victim g (g.set a)) false

/-- Prefetch a line (20_memory.md R127): a hit is replaced in its way, a miss fills the victim's. -/
def Cache.prefetch (c : Cache) (m : Memory) (g : Geometry) (a : Nat) : Cache × Memory :=
  match findLine c.lines (g.base a) with
  | some l => c.replace m g a l.way1 l.lock
  | none => c.replace m g a (c.victim g (g.set a)) false

/-- Prefetch and lock a line (20_memory.md R127): it ends in way 0, and a copy in way 1 is given up. -/
def Cache.prefetchLock (c : Cache) (m : Memory) (g : Geometry) (a : Nat) : Cache × Memory :=
  let e := c.evict m (fun l => decide (l.base = g.base a))
  e.1.replace e.2 g a false true

/-- Invalidate and unlock a line (20_memory.md R127); dirty data is lost (R131). -/
def Cache.invalidate (c : Cache) (g : Geometry) (a : Nat) : Cache :=
  { c with lines := c.lines.filter (fun l => decide (l.base ≠ g.base a)) }

/-- Line write-out (20_memory.md R127): write back if dirty, clean, mark as used. -/
def Cache.writeOut (c : Cache) (m : Memory) (g : Geometry) (a : Nat) : Cache × Memory :=
  match findLine c.lines (g.base a) with
  | none => (c, m)
  | some l =>
    (({ c with lines := mapLine (fun k => { k with dirty := false }) c.lines (g.base a) }).mark (g.set a) l.way1,
      writeBack m l)

/-- Line flush (20_memory.md R127): write back if dirty, invalidate, mark the other way. -/
def Cache.flush (c : Cache) (m : Memory) (g : Geometry) (a : Nat) : Cache × Memory :=
  match findLine c.lines (g.base a) with
  | none => (c, m)
  | some l =>
    let e := c.evict m (fun k => decide (k.base = g.base a))
    (e.1.mark (g.set a) (!l.way1), e.2)

/-- Write-out of the whole D-cache (20_memory.md R127). -/
def Cache.writeOutAll (c : Cache) (m : Memory) : Cache × Memory :=
  ({ c with lines := c.lines.map (fun l => { l with dirty := false }) }, writeBackAll m c.lines)

/-- Flush of the whole D-cache (20_memory.md R127): every line is written back and given up, the MRU bit of its set is set
to the other way. -/
def Cache.flushAll (c : Cache) (m : Memory) (g : Geometry) : Cache × Memory :=
  ({ c.lines.foldl (fun k l => k.mark (g.set l.base) (!l.way1)) c with lines := [] }, writeBackAll m c.lines)

end Sys2Proof.Machine
end

