-- ==== Sys2Proof/Machine/CtlReg.lean ====
section
/-!
DEFINITION. The control registers as words: `CRread` and `CRwrite` of 45_system.md R480 and R481, field by field from the
tables of 10_state.md R33 to R51.
-/
namespace Sys2Proof.Machine

/-- One bit of a word. -/
def b1 (b : Bool) : BitVec 1 := BitVec.ofBool b

/-- PSR (10_state.md R33). -/
def psrWord (endian : Bool) (p : Psr) : Word :=
  p.cu ++ b1 p.cra ++ 0#4 ++ p.im ++ b1 endian ++ 0#9 ++
    b1 p.umb ++ b1 p.ieb ++ b1 p.ums ++ b1 p.ies ++ b1 p.umc ++ b1 p.iec

/-- The R/W fields of PSR from a word (45_system.md R481). -/
def psrOfWord (w : Word) : Psr where
  cu := w.extractLsb' 29 3
  cra := w.getLsbD 28
  im := w.extractLsb' 16 8
  umb := w.getLsbD 5
  ieb := w.getLsbD 4
  ums := w.getLsbD 3
  ies := w.getLsbD 2
  umc := w.getLsbD 1
  iec := w.getLsbD 0

/-- One level of the Condition register, T first (10_state.md R26). -/
def flagBits (f : Flags) : BitVec 5 := b1 f.t ++ b1 f.n ++ b1 f.z ++ b1 f.c ++ b1 f.v

/-- One level of flags from its five bits. -/
def flagsOfBits (w : BitVec 5) : Flags := ⟨w.getLsbD 4, w.getLsbD 3, w.getLsbD 2, w.getLsbD 1, w.getLsbD 0⟩

/-- Condition (10_state.md R38). -/
def condWord (c : CondReg) : Word := 0#17 ++ flagBits c.bak ++ flagBits c.sav ++ flagBits c.cur

/-- Condition from a word. -/
def condOfWord (w : Word) : CondReg :=
  ⟨flagsOfBits (w.extractLsb' 0 5), flagsOfBits (w.extractLsb' 5 5), flagsOfBits (w.extractLsb' 10 5)⟩

/-- ECR, with the interrupt level the controller presents (10_state.md R40, R41). -/
def ecrWord (irq : BitVec 6) (e : Ecr) : Word :=
  0#8 ++ irq ++ e.softIp ++ 0#8 ++ e.ce ++ 0#1 ++ e.excCode

/-- EXCPVec (10_state.md R42). -/
def excpVecWord (v : ExcpVec) : Word := v.base ++ 0#15 ++ b1 v.vo

/-- CCR; MMU reads 0 (10_state.md R43). -/
def ccrWord (c : Ccr) : Word :=
  0#22 ++ b1 c.dpfb ++ b1 c.ipfb ++ b1 c.wback ++ b1 c.rdBpDis ++ b1 c.nopMode ++ b1 c.bten ++ b1 c.ldm ++
    b1 c.lim ++ 0#1 ++ b1 c.wb

/-- The R/W fields of CCR from a word (10_state.md R43). -/
def Ccr.write (c : Ccr) (w : Word) : Ccr :=
  { c with
    rdBpDis := w.getLsbD 6
    nopMode := w.getLsbD 5
    bten := w.getLsbD 4
    ldm := w.getLsbD 3
    lim := w.getLsbD 2 }

/-- EPC and DEPC (10_state.md R45, R50). -/
def SavedPc.word (p : SavedPc) : Word := p.addr ++ b1 p.m

/-- DREG (10_state.md R49): DBusEP is 1 in debug mode while a bus error is pending (60_exceptions.md R702). -/
def dregWord (probeEn busErrPending : Bool) (d : Dreg) : Word :=
  0#2 ++ b1 d.iceDis ++ b1 d.initOk ++ b1 probeEn ++ b1 d.dm ++ 0#1 ++ b1 (d.dm && busErrPending) ++ 0#10 ++
    d.dExcCode ++ b1 d.ssEn ++ 0#1 ++ b1 d.cause.ddblv ++ b1 d.cause.dint ++ b1 d.cause.dib ++ b1 d.cause.ddbs ++
    b1 d.cause.ddbla ++ b1 d.cause.dbp ++ b1 d.cause.dss

/-- The R/W fields of DREG from a word (10_state.md R49). -/
def Dreg.write (d : Dreg) (w : Word) : Dreg :=
  { d with iceDis := w.getLsbD 29, initOk := w.getLsbD 28, ssEn := w.getLsbD 8 }

/-- `CRread(n)` (45_system.md R480); a number with no register has no value (10_state.md R32). -/
def State.readCr (s : State) (crn : BitVec 5) : Option Word :=
  match crn.toNat with
  | 0 => some (psrWord s.cfg.bigEndian s.psr)
  | 1 => some (condWord s.cond)
  | 2 => some (ecrWord s.pins.irq s.ecr)
  | 3 => some (excpVecWord s.excpVec)
  | 4 => some (ccrWord s.ccr)
  | 5 => some s.epc.word
  | 6 => some s.ema
  | 15 => some s.limpfn
  | 16 => some s.ldmpfn
  | 18 => some (0#8 ++ Config.normPrev)
  | 29 => some (dregWord s.cfg.probeEn s.busErrPending s.dreg)
  | 30 => some s.depc.word
  | 31 => some s.dsave
  | _ => none

/-- `CRwrite(n, v)` (45_system.md R481): the R/W fields only. What LIMPFN and LDMPFN hold after a write is unspecified:
a free value (10_state.md R47, log 14). -/
def State.writeCr (s : State) (crn : BitVec 5) (v : Word) : Option State :=
  match crn.toNat with
  | 0 => some { s with psr := psrOfWord v }
  | 1 => some { s with cond := condOfWord v }
  | 2 => some { s with ecr := { s.ecr with softIp := v.extractLsb' 16 2 } }
  | 3 => some { s with excpVec := ⟨v.extractLsb' 16 16, v.getLsbD 0⟩ }
  | 4 => some { s with ccr := s.ccr.write v }
  | 5 => some { s with epc := { s.epc with addr := v.extractLsb' 1 31 } }
  | 6 => some { s with ema := v }
  | 15 => some { s.spend with limpfn := s.freeWord }
  | 16 => some { s.spend with ldmpfn := s.freeWord }
  | 18 => some s
  | 29 => some { s with dreg := s.dreg.write v }
  | 30 => some { s with depc := { s.depc with addr := v.extractLsb' 1 31 } }
  | 31 => some { s with dsave := v }
  | _ => none

end Sys2Proof.Machine
end

