-- ==== Sys2Proof/Machine/Debug.lean ====
section
/-!
DEFINITION. The SJTAG breakpoint unit: when a breakpoint matches (60_exceptions.md R709, R712), and its registers in the
debug register segment (R704 to R711).
-/
namespace Sys2Proof.Machine

/-! ## Matches -/

/-- Every address bit that the mask leaves is equal. -/
def maskedEq (mask a b : Word) : Bool := (mask ||| ~~~(a ^^^ b)) == 0xFFFFFFFF#32

/-- `IB_match` with BE (60_exceptions.md R709). -/
def InstrBreak.hits (b : InstrBreak) (asid : Byte) (pc : Word) : Bool :=
  b.be && (!b.asidUse || asid == b.asid) && maskedEq b.mask pc b.addr

/-- A data access as the breakpoint unit sees it: address, size in bytes, byte lanes, the word on the bus (R712). -/
structure BusView where
  addr : Word
  bytes : Nat
  lanes : BitVec 4
  data : Word
  deriving DecidableEq, Repr

/-- The Size code: 00, 01, 10, 11 for 1 to 4 bytes (60_exceptions.md R712). -/
def sizeCode (n : Nat) : BitVec 2 := BitVec.ofNat 2 (n - 1)

/-- `DB_addr_match` (60_exceptions.md R712). -/
def DataBreak.addrMatch (b : DataBreak) (asid : Byte) (v : BusView) : Bool :=
  (!b.asidUse || asid == b.asid) && (b.noSz || sizeCode v.bytes == b.sz) &&
    maskedEq b.mask v.addr b.addr && (b.bai ||| v.lanes) == 0xF#4

/-- `DB_no_value` (60_exceptions.md R712). -/
def DataBreak.noValue (b : DataBreak) (v : BusView) : Bool := (b.blm ||| b.bai ||| ~~~v.lanes) == 0xF#4

/-- One byte lane of `DB_value_match`. -/
def DataBreak.laneMatch (b : DataBreak) (v : BusView) (i : Nat) : Bool :=
  v.data.extractLsb' (8 * i) 8 == b.value.extractLsb' (8 * i) 8 || !v.lanes.getLsbD i || b.blm.getLsbD i || b.bai.getLsbD i

/-- `DB_value_match` (60_exceptions.md R712). -/
def DataBreak.valueMatch (b : DataBreak) (v : BusView) : Bool :=
  b.laneMatch v 3 && b.laneMatch v 2 && b.laneMatch v 1 && b.laneMatch v 0

/-- DDBLA: a load matches an address-only breakpoint (60_exceptions.md R688). -/
def State.ddblaHit (s : State) (v : BusView) : Bool :=
  !s.dreg.dm && s.dbrk.any fun b => b.be && !b.noLb && b.addrMatch s.cfg.curAsid v && b.noValue v

/-- DDBLV: a load matches address and value (60_exceptions.md R688). -/
def State.ddblvHit (s : State) (v : BusView) : Bool :=
  !s.dreg.dm && s.dbrk.any fun b =>
    b.be && !b.noLb && b.addrMatch s.cfg.curAsid v && !b.noValue v && b.valueMatch v

/-- DDBS: a store matches (60_exceptions.md R688). -/
def State.ddbsHit (s : State) (v : BusView) : Bool :=
  !s.dreg.dm && s.dbrk.any fun b =>
    b.be && !b.noSb && b.addrMatch s.cfg.curAsid v && (b.noValue v || b.valueMatch v)

/-! ## The registers of drseg -/

/-- IBCn (60_exceptions.md R708). -/
def InstrBreak.control (b : InstrBreak) : Word := 0#23 ++ b1 b.asidUse ++ 0#7 ++ b1 b.be

/-- DBCn (60_exceptions.md R711). -/
def DataBreak.control (b : DataBreak) : Word :=
  0#7 ++ b1 b.asidUse ++ 0#4 ++ b.bai ++ b.sz ++ b1 b.noSz ++ 0#1 ++ b.blm ++ b1 b.noSb ++ b1 b.noLb ++ 0#5 ++ b1 b.be

/-- The register of an instruction breakpoint at an offset in its group (60_exceptions.md R704, R707, R708). -/
def InstrBreak.read (b : InstrBreak) (field : Nat) : Option Word :=
  match field with
  | 0x0 => some b.addr
  | 0x4 => some b.mask
  | 0x8 => some (b.asid.setWidth 32)
  | 0xC => some b.control
  | _ => none

/-- Write that register: the R/W fields only. -/
def InstrBreak.write (b : InstrBreak) (field : Nat) (w : Word) : InstrBreak :=
  match field with
  | 0x0 => { b with addr := w }
  | 0x4 => { b with mask := w }
  | 0x8 => { b with asid := w.setWidth 8 }
  | 0xC => { b with asidUse := w.getLsbD 8, be := w.getLsbD 0 }
  | _ => b

/-- The register of a data breakpoint at an offset in its group (60_exceptions.md R704, R710, R711). -/
def DataBreak.read (b : DataBreak) (field : Nat) : Option Word :=
  match field with
  | 0x00 => some b.addr
  | 0x04 => some b.mask
  | 0x08 => some (b.asid.setWidth 32)
  | 0x0C => some b.control
  | 0x10 => some b.value
  | _ => none

/-- Write that register: the R/W fields only. -/
def DataBreak.write (b : DataBreak) (field : Nat) (w : Word) : DataBreak :=
  match field with
  | 0x00 => { b with addr := w }
  | 0x04 => { b with mask := w }
  | 0x08 => { b with asid := w.setWidth 8 }
  | 0x0C =>
    { b with
      asidUse := w.getLsbD 24
      bai := w.extractLsb' 16 4
      sz := w.extractLsb' 14 2
      noSz := w.getLsbD 13
      blm := w.extractLsb' 8 4
      noSb := w.getLsbD 7
      noLb := w.getLsbD 6
      be := w.getLsbD 0 }
  | 0x10 => { b with value := w }
  | _ => b

/-- A register of drseg (60_exceptions.md R704). -/
inductive DrsegReg where
  | dcr
  | ibs
  | dbs
  /-- a register of instruction breakpoint `n + 1` -/
  | instr (n field : Nat)
  /-- a register of data breakpoint `n + 1` -/
  | data (n field : Nat)
  deriving DecidableEq, Repr

/-- Which register an offset from 0xFFFF0000 names, if the breakpoints were without number (60_exceptions.md R704). -/
def drsegReg (off : Nat) : Option DrsegReg :=
  if off = 0x0000 then some .dcr
  else if off = 0x1000 then some .ibs
  else if off = 0x3000 then some .dbs
  else if 0x2000 ≤ off ∧ off < 0x3000 then some (.instr ((off - 0x2000) / 0x100) (off % 0x100))
  else if 0x4000 ≤ off ∧ off < 0x5000 then some (.data ((off - 0x4000) / 0x100) (off % 0x100))
  else none

/-- A status register: the number of breakpoints in bits 27:24 (60_exceptions.md R706, R710). -/
def countWord (n : Nat) : Word := 0#4 ++ BitVec.ofNat 4 n ++ 0#24

/-- Read the register of drseg at an offset; none where there is no register. -/
def State.drsegRead (s : State) (off : Nat) : Option Word :=
  match drsegReg off with
  | none => none
  | some .dcr => some (0#31 ++ b1 s.cfg.probeEn)
  | some .ibs => some (countWord s.ibrk.length)
  | some .dbs => some (countWord s.dbrk.length)
  | some (.instr n field) => (s.ibrk[n]?).bind fun b => b.read field
  | some (.data n field) => (s.dbrk[n]?).bind fun b => b.read field

/-- Write the register of drseg at an offset; the read-only ones keep their values. -/
def State.drsegWrite (s : State) (off : Nat) (w : Word) : State :=
  match drsegReg off with
  | some (.instr n field) => { s with ibrk := s.ibrk.modify n fun b => b.write field w }
  | some (.data n field) => { s with dbrk := s.dbrk.modify n fun b => b.write field w }
  | _ => s

end Sys2Proof.Machine
end

