-- ==== Sys2Proof/Machine/WriteBuffer.lean ====
section
/-!
DEFINITION. The write buffer (10_state.md R55, 20_memory.md R110, R112 to R114): stores that wait for memory, enabled by
CCR.WB. They reach memory in program order (decision D5). What else the spec leaves open is DESIGN CHOICE: what joins the buffer and
what drains it (log 22), and when stores leave by themselves, a free number of the oldest after every step (log 60).
-/
namespace Sys2Proof.Machine

/-- The buffer holds four words (20_memory.md R120). -/
def bufferWords : Nat := 4

/-- Memory after bytes have been written to it. -/
def Memory.putCells : Memory → List (Word × Byte) → Memory
  | m, [] => m
  | m, (a, v) :: cs => (m.set a.toNat v).putCells cs

/-- Memory after buffered stores have reached it, the oldest first (20_memory.md R112). -/
def Memory.putStores (m : Memory) (es : List BufferedStore) : Memory := es.foldl (fun m e => m.putCells e.cells) m

/-- Memory with every buffered store in it: what the loads of this core, and the D-cache, see behind the cache
(20_memory.md R110). -/
def State.dataMem (s : State) : Memory := s.mem.putStores s.wbuf

/-- The `n` oldest buffered stores reach memory. -/
def State.drain (s : State) (n : Nat) : State := { s with mem := s.mem.putStores (s.wbuf.take n), wbuf := s.wbuf.drop n }

/-- Every buffered store reaches memory. -/
def State.drainAll (s : State) : State := { s with mem := s.dataMem, wbuf := [] }

/-- A free number of the oldest buffered stores reaches memory (log 60). -/
def State.drainSome (s : State) : State :=
  match s.wbuf with
  | [] => s
  | _ :: _ => { s.drain (Config.drained s.freeCtr) with freeCtr := s.freeCtr + 1 }

/-- Bytes of a store join the buffer as its youngest word; a full buffer first gives up its oldest, and
no two stores share a word (20_memory.md R112, log 22). -/
def State.pushStore (s : State) (cs : List (Word × Byte)) : State :=
  let t := s.drain (s.wbuf.length + 1 - bufferWords)
  if cs = [] then s else { t with wbuf := t.wbuf ++ [⟨cs⟩] }

/-- A load may not bypass buffered stores when CCR.RdBpDis is set: it waits until they have reached memory,
whatever its address (20_memory.md R110, R113, log 22). -/
def State.waitDrain (s : State) : State := if s.ccr.rdBpDis then s.drainAll else s

end Sys2Proof.Machine
end

