-- ==== Sys2Proof/Machine/Access.lean ====
section
/-!
DEFINITION. Data accesses (20_memory.md R80 to R104): the bytes a load sees and a store changes, byte order, and the checks
of R95 in their order (60_exceptions.md R660).
-/
namespace Sys2Proof.Machine

/-! ## The address map -/

/-- An address in a region. -/
def Region.holds (g : Region) (a : Word) : Bool := decide (g.base ≤ a.toNat) && decide (a.toNat < g.base + g.size)

/-- The debug segment 0xFF000000..0xFFFFFFFF (20_memory.md R102). -/
def debugSegment (a : Word) : Bool := decide (0xFF000000 ≤ a.toNat)

/-- dmseg, 0xFF000000..0xFFEFFFFF (20_memory.md R102). -/
def inDmseg (a : Word) : Bool := decide (0xFF000000 ≤ a.toNat) && decide (a.toNat < 0xFFF00000)

/-- drseg, 0xFFFF0000..0xFFFFFFFF (20_memory.md R102). -/
def inDrseg (a : Word) : Bool := decide (0xFFFF0000 ≤ a.toNat)

/-- `KERNEL_SPACE` (20_memory.md R100). -/
def State.kernelSpace (s : State) (a : Word) : Bool := s.cfg.kernelSpace.any (Region.holds · a)

/-- The block of 32 bytes, the longest cache line, that an address is in. -/
def lineBlock (a : Word) : Word := a &&& 0xFFFFFFE0#32

/-- The block of the reset vector, which is uncached (20_memory.md R98, R101, 70_reset_and_hazards.md R731). -/
def resetBlock (a : Word) : Bool := lineBlock a == 0x9F000000#32

/-- `CACHEABLE` (20_memory.md R101): false at the reset vector and in the debug segment whatever the platform answers
(92_eei_decisions.md D4), and decided for a whole block of 32 bytes (log 23). -/
def State.cacheable (s : State) (a : Word) : Bool :=
  !debugSegment a && !resetBlock a && s.cfg.cacheable.any (Region.holds · (lineBlock a))

/-- `BUS_ERROR` (20_memory.md R104). -/
def State.busError (s : State) (k : Access) (a : Word) : Bool :=
  s.cfg.busErrors.any fun g => decide (g.kind = k) && Region.holds g.region a

/-- The shape of the D-cache: lines of four words, two ways (20_memory.md R120). -/
def State.dGeometry (s : State) : Geometry := ⟨16, s.cfg.dcacheBytes / 32⟩

/-- The shape of the I-cache: lines of four or eight words, two ways (20_memory.md R120). -/
def State.iGeometry (s : State) : Geometry :=
  if s.cfg.icacheEightWords then ⟨32, s.cfg.icacheBytes / 64⟩ else ⟨16, s.cfg.icacheBytes / 32⟩

/-! ## Bytes -/

/-- The byte a load sees at an address: the D-cache's where it holds one, else the youngest buffered store's, else memory's
(20_memory.md R84, R110, R120). -/
def State.readByte (s : State) (a : Word) : Byte :=
  if s.cacheable a then
    match s.dcache.byte? s.dGeometry a.toNat with
    | some v => v
    | none => s.dataMem.get a.toNat
  else s.dataMem.get a.toNat

/-- A store to this address goes to a line of the D-cache in write-back mode and not to memory (20_memory.md R120). -/
def State.writesBack (s : State) (a : Word) : Bool :=
  s.cacheable a && (s.dcache.byte? s.dGeometry a.toNat).isSome && s.ccr.wback

/-- Store a byte, there being no write buffer: to a line of the D-cache that holds it, and to memory unless that line is in
write-back mode (20_memory.md R120, R125). -/
def State.writeByte (s : State) (a : Word) (v : Byte) : State :=
  if s.cacheable a && (s.dcache.byte? s.dGeometry a.toNat).isSome then
    { s with
      dcache := { s.dcache with
        lines := mapLine (fun l => l.setByte (a.toNat % s.dGeometry.lineBytes) v s.ccr.wback)
          s.dcache.lines (s.dGeometry.base a.toNat) }
      mem := if s.ccr.wback then s.mem else s.mem.set a.toNat v }
  else { s with mem := s.mem.set a.toNat v }

/-- The bytes at `n` rising addresses. -/
def State.readBytes (s : State) : Word → Nat → List Byte
  | _, 0 => []
  | a, n + 1 => s.readByte a :: s.readBytes (a + 1#32) n

/-- Store bytes at rising addresses, there being no write buffer. -/
def State.writeBytes (s : State) : Word → List Byte → State
  | _, [] => s
  | a, v :: vs => (s.writeByte a v).writeBytes (a + 1#32) vs

/-- The bytes of a store that go to memory, with their addresses. -/
def State.memCells (s : State) : Word → List Byte → List (Word × Byte)
  | _, [] => []
  | a, v :: vs => if s.writesBack a then s.memCells (a + 1#32) vs else (a, v) :: s.memCells (a + 1#32) vs

/-- Store bytes at rising addresses. With CCR.WB = 0 every store has reached memory when the next instruction executes; with
CCR.WB = 1 what goes to memory waits in the write buffer (20_memory.md R110, R112). -/
def State.storeBytes (s : State) (a : Word) (vs : List Byte) : State :=
  let t := s.drainAll.writeBytes a vs
  if s.ccr.wb then State.pushStore { s with dcache := t.dcache } (s.memCells a vs) else t

/-! ## Byte order (20_memory.md R84) -/

/-- The value of bytes whose first is the most significant. -/
def valueBig (vs : List Byte) : Word := vs.foldl (fun acc v => (acc <<< 8) ||| v.setWidth 32) 0#32

/-- The value of bytes at rising addresses. -/
def bytesValue (be : Bool) (vs : List Byte) : Word := if be then valueBig vs else valueBig vs.reverse

/-- The low `n` bytes of a word, the least significant first. -/
def littleBytes : Word → Nat → List Byte
  | _, 0 => []
  | w, n + 1 => w.setWidth 8 :: littleBytes (w >>> 8) n

/-- The low `n` bytes of a word in the order of rising addresses. -/
def valueBytes (be : Bool) (w : Word) (n : Nat) : List Byte :=
  if be then (littleBytes w n).reverse else littleBytes w n

/-- `MemRead(a, n)` without the checks (20_memory.md R84). -/
def State.readMem (s : State) (a : Word) (n : Nat) : Word := bytesValue s.cfg.bigEndian (s.readBytes a n)

/-- `MemWrite(a, n, v)` without the checks (20_memory.md R84, 43_load_store.md R389). -/
def State.writeMem (s : State) (a : Word) (n : Nat) (v : Word) : State :=
  s.storeBytes a (valueBytes s.cfg.bigEndian v n)

/-! ## An access -/

/-- A data access: the address, the number of bytes, and the address the breakpoint unit sees (60_exceptions.md R688). -/
structure Acc where
  addr : Word
  bytes : Nat
  watch : Word
  deriving DecidableEq, Repr

/-- An access whose breakpoint address is its own. -/
def Acc.at (a : Word) (n : Nat) : Acc := ⟨a, n, a⟩

/-- The bus lane of an address (20_memory.md R85). -/
def laneOf (be : Bool) (a : Word) : Nat :=
  if be then 3 - (a.setWidth 2).toNat else (a.setWidth 2).toNat

/-- The byte lanes of `n` bytes from an address, as a set of four (60_exceptions.md R712). -/
def lanesOf (be : Bool) : Word → Nat → BitVec 4
  | _, 0 => 0#4
  | a, n + 1 => (1#4 <<< laneOf be a) ||| lanesOf be (a + 1#32) n

/-- Bytes on their lanes of the bus word (60_exceptions.md R712). -/
def busWord (be : Bool) : Word → List Byte → Word
  | _, [] => 0#32
  | a, v :: vs => (v.setWidth 32 <<< (8 * laneOf be a)) ||| busWord be (a + 1#32) vs

/-- The address that chooses the lanes: the table of 20_memory.md R85 reads no bit 0 for a halfword and gives a word all four
lanes. The match comes before the alignment check (60_exceptions.md R660), so the address may be misaligned; a misaligned
word has no row in the table (log 57). -/
def Acc.laneAddr (x : Acc) : Word :=
  if x.bytes = 2 then x.addr &&& 0xFFFFFFFE#32 else if x.bytes = 4 then wordAddr x.addr else x.addr

/-- The access as the breakpoint unit sees it, with the bytes it moves (60_exceptions.md R712). -/
def Acc.view (x : Acc) (be : Bool) (vs : List Byte) : BusView :=
  ⟨x.watch, x.bytes, lanesOf be x.laneAddr x.bytes, busWord be x.laneAddr vs⟩

/-- What the checks of an access answer. -/
inductive Check where
  | ok
  | exc (x : Exc)
  | dbg (y : DebugExc)
  | stop (f : Fault)
  deriving DecidableEq, Repr

/-- The alignment rule: a halfword at an odd address, a word off its boundary (20_memory.md R89). -/
def misaligned (a : Word) (n : Nat) : Bool :=
  (n == 2 && a.getLsbD 0) || (n == 4 && (a.getLsbD 0 || a.getLsbD 1))

/-- The two range checks (20_memory.md R95 step 3). -/
def State.forbidden (s : State) (a : Word) : Bool :=
  (s.userMode && s.kernelSpace a) || (!s.dreg.dm && debugSegment a)

/-- The address error of an access kind (20_memory.md R89). -/
def addrExc : Access → Word → Exc
  | .store, a => .ades a
  | .load, a => .adelData a
  | .fetch, a => .adelInstr a

/-- The address error of a data access, if it raises one (20_memory.md R95 steps 2 and 3). -/
def State.addrError (s : State) (k : Access) (a : Word) (n : Nat) : Option Exc :=
  if misaligned a n || s.forbidden a then some (addrExc k a) else none

/-- What an access to the debug segment stops with (20_memory.md R102, 60_exceptions.md R703, R704). Only debug mode comes
here, the range check having passed. -/
def State.debugSegmentStop (s : State) (a : Word) (n : Nat) : Option Fault :=
  if inDrseg a then
    if n = 4 && (s.drsegRead (a.toNat - 0xFFFF0000)).isSome then none else some .drsegAccess
  else if inDmseg a then (if s.cfg.probeEn then none else some .noProbe)
  else if debugSegment a then some .unassignedDebugAddress
  else none

/-- The last check: a bus error, and the parts of the debug segment that do not answer. A store's bus error is imprecise
when the write buffer is on, and the store then goes on (20_memory.md R104). -/
def State.busCheck (s : State) (k : Access) (a : Word) (n : Nat) : Check :=
  if s.busError k a then
    if k = .store && s.ccr.wb then .ok else .exc .buselData
  else
    match s.debugSegmentStop a n with
    | some f => .stop f
    | none => .ok

/-- The breakpoint of a load (20_memory.md R95 step 1). -/
def State.loadBreak (s : State) (x : Acc) : Option DebugExc :=
  if s.ddblaHit (x.view s.cfg.bigEndian []) then some .ddbla else none

/-- The breakpoint of a store, whose data is known (60_exceptions.md R688). -/
def State.storeBreak (s : State) (x : Acc) (v : Word) : Option DebugExc :=
  if s.ddbsHit (x.view s.cfg.bigEndian (valueBytes s.cfg.bigEndian v x.bytes)) then some .ddbs else none

/-- The checks of one access, in the order of 60_exceptions.md R660; `mid` is a coprocessor's report, between the address
error and the bus error. -/
def State.checkAccess (s : State) (k : Access) (x : Acc) (brk : Option DebugExc) (mid : Option Exc) : Check :=
  match brk with
  | some y => .dbg y
  | none =>
    match s.addrError k x.addr x.bytes with
    | some e => .exc e
    | none =>
      match mid with
      | some e => .exc e
      | none => s.busCheck k x.addr x.bytes

/-- The checks of a load. -/
def State.checkLoad (s : State) (x : Acc) (mid : Option Exc) : Check :=
  s.checkAccess .load x (s.loadBreak x) mid

/-- The checks of a store. -/
def State.checkStore (s : State) (x : Acc) (v : Word) (mid : Option Exc) : Check :=
  s.checkAccess .store x (s.storeBreak x v) mid

/-! ## Loads -/

/-- An access of debug mode to drseg reaches the breakpoint unit (60_exceptions.md R704). -/
def State.drsegAt (s : State) (a : Word) : Bool := s.dreg.dm && inDrseg a

/-- The word of the breakpoint unit's register at an address that has passed its checks (60_exceptions.md R704). -/
def State.drsegWord (s : State) (a : Word) : Word := (s.drsegRead (a.toNat - 0xFFFF0000)).getD 0#32

/-- The value of a load that has passed its checks. -/
def State.loadValue (s : State) (x : Acc) : Word :=
  if s.drsegAt x.addr then s.drsegWord x.addr else s.readMem x.addr x.bytes

/-- A cache gives up a dirty line: one that the cache after it does not hold. -/
def Cache.losesDirty (c d : Cache) : Bool := c.lines.any fun l => l.dirty && !d.lines.contains l

/-- The D-cache and the memory behind it after lines have been filled, as the operations of Cache.lean compute them over
`dataMem`. A dirty line that had to go is written to memory after the stores that were buffered before it (20_memory.md R112,
decision D5, log 22); else the buffer stays as it is. -/
def State.setFill (s : State) (x : Cache × Memory) : State :=
  if s.dcache.losesDirty x.1 then { s with dcache := x.1, mem := x.2, wbuf := [] } else { s with dcache := x.1 }

/-- A load of a cacheable address fills a line of the D-cache (read allocate, 20_memory.md R120). DESIGN CHOICE (log 56): the
spec is silent on a bus error at the other bytes of the line and in the write-back of the line that is replaced; here the
refill and the write-back never fail. -/
def State.fillD (s : State) (a : Word) : State :=
  if s.cacheable a then
    s.setFill (s.dcache.readFill s.dataMem s.dGeometry a.toNat)
  else s

/-- What a load leaves besides its value: the write buffer, the cache, and a pending DDBLV (60_exceptions.md R688). -/
def State.afterLoad (s : State) (x : Acc) : State :=
  let t := s.waitDrain.fillD x.addr
  if s.ddblvHit (x.view s.cfg.bigEndian (valueBytes s.cfg.bigEndian (s.loadValue x) x.bytes)) then
    { t with ddblvPending := true }
  else t

/-- The outcome of an instruction that makes an access: `body` when every check passes. -/
def onCheck (c : Check) (w : Width) (s : State) (body : State) : Result :=
  match c with
  | .ok => done w body
  | .exc x => raise x w s
  | .dbg y => .next (debugEnter y w s)
  | .stop f => .fault f

/-- A load: `put` says what is done with the value, in the state the load leaves. -/
def loadThen (w : Width) (s : State) (x : Acc) (mid : Option Exc) (put : Word → State → State) : Result :=
  onCheck (s.checkLoad x mid) w s (put (s.loadValue x) (s.afterLoad x))

/-! ## Stores -/

/-- A store to a cacheable address that hits marks the way as used. -/
def State.touchD (s : State) (a : Word) : State :=
  if s.cacheable a then
    match findLine s.dcache.lines (s.dGeometry.base a.toNat) with
    | some l => { s with dcache := s.dcache.mark (s.dGeometry.set a.toNat) l.way1 }
    | none => s
  else s

/-- What a store leaves: the register of drseg or the bytes of memory; a store whose bus error is imprecise loses its data
and leaves the error pending (60_exceptions.md R636, R702). -/
def State.afterStore (s : State) (x : Acc) (v : Word) : State :=
  if s.busError .store x.addr then { s with busErrPending := true }
  else if s.drsegAt x.addr then s.drsegWrite (x.addr.toNat - 0xFFFF0000) v
  else (s.touchD x.addr).writeMem x.addr x.bytes v

/-- A store: `put` says what is done after it. -/
def storeThen (w : Width) (s : State) (x : Acc) (v : Word) (mid : Option Exc) (put : State → State) : Result :=
  onCheck (s.checkStore x v mid) w s (put (s.afterStore x v))

end Sys2Proof.Machine
end

