-- ==== Sys2Proof/WellFormed.lean ====
section
/-!
DEFINITION. Which instructions of the syntax are instructions to which the spec gives an effect of their own: an operand
that the spec calls reserved, or that names no register or operation, makes a term ill formed. What the machine does with
an ill-formed instruction is said by its meaning all the same.
-/
namespace Sys2Proof

/-- The special registers that exist: CNT, LCR, SCR (10_state.md R25). -/
def srnNamed (srn : BitVec 5) : Bool := decide (srn.toNat ≤ 2)

/-- The control-register numbers that exist (10_state.md R30). -/
def crNamed (crn : BitVec 5) : Bool :=
  decide (crn.toNat ≤ 6) || decide (crn.toNat ∈ [15, 16, 18, 29, 30, 31])

/-- The cache operations that the table of 20_memory.md R125 defines. -/
def cacheOpDefined (op : BitVec 5) : Bool :=
  !decide (op.toNat ∈ [0x05, 0x06, 0x07, 0x0F, 0x12, 0x13, 0x14, 0x15, 0x16, 0x17, 0x19])

/-- The well-formed instructions: no `mvcnz` (30_encoding.md R203), a special register, a control register and a cache
operation that exist (R204, R205). -/
def wellFormed : Instr → Bool
  | .mvcond _ _ ec => ec != .cnz
  | .mfsr _ srn => srnNamed srn
  | .mtsr _ srn => srnNamed srn
  | .mfcr _ crn => crNamed crn
  | .mtcr _ crn => crNamed crn
  | .cache op _ _ => cacheOpDefined op
  | _ => true

end Sys2Proof
end

