-- ==== Sys2Proof/Machine/CacheOp.lean ====
section
/-!
DEFINITION. The `cache` instruction (45_system.md R485, 20_memory.md R122 to R131).
-/
namespace Sys2Proof.Machine

/-- The operations that are loads to the address check: prefetch and fill (20_memory.md R128, 60_exceptions.md R635). -/
def cacheLoads (op : BitVec 5) : Bool := decide (op.toNat ∈ [0x00, 0x01, 0x03, 0x04, 0x08, 0x09, 0x0B])

/-- The operations that are stores to the address check: write-back of a line (20_memory.md R128). -/
def cacheStores (op : BitVec 5) : Bool := decide (op.toNat ∈ [0x0D, 0x0E])

/-- The line operations that an uncacheable address makes the controller ignore (20_memory.md R129). -/
def cacheLineOp (op : BitVec 5) : Bool := decide (op.toNat ∈ [0x00, 0x01, 0x08, 0x09, 0x0D, 0x0E])

/-- The operations on a local memory that is present (20_memory.md R130). -/
def State.localMemoryOp (s : State) (op : BitVec 5) : Bool :=
  (s.cfg.limPresent && decide (op.toNat ∈ [0x03, 0x04])) || (s.cfg.ldmPresent && decide (op.toNat ∈ [0x0B, 0x0C]))

/-- The address error of a cache operation: AdEL-data for a prefetch or fill, AdES for the write-back of a line; alignment is
not checked (20_memory.md R128, decision D25). DESIGN CHOICE (log 61): the line invalidates 02 and 0A take a VA (R125) and
raise no address error. 45_system.md R485 gives the privilege address errors to operations that take a VA, R128 to prefetch
and write-back only; the model follows R128. -/
def State.cacheAddrError (s : State) (op : BitVec 5) (va : Word) : Option Exc :=
  if s.forbidden va then
    if cacheLoads op then some (.adelData va) else if cacheStores op then some (.ades va) else none
  else none

/-- The controller ignores the operation (20_memory.md R129). -/
def State.cacheIgnored (s : State) (op : BitVec 5) (va : Word) : Bool := cacheLineOp op && !s.cacheable va

/-- The D-cache and memory after lines have been written to memory, every buffered store before them (log 22): memory then
holds the data of those lines (20_memory.md R112, R131). -/
def State.setD (s : State) (x : Cache × Memory) : State := { s with dcache := x.1, mem := x.2, wbuf := [] }

/-- The D-cache replaced. -/
def State.setDcache (s : State) (c : Cache) : State := { s with dcache := c }

/-- An operation on the line of `a` if the D-cache holds it; a miss is ignored (20_memory.md R127). -/
def State.onHit (s : State) (a : Nat) (x : Cache × Memory) : State :=
  if (findLine s.dcache.lines (s.dGeometry.base a)).isSome then s.setD x else s

/-- The write buffer toggled: it is drained when it is disabled (20_memory.md R110, R126). -/
def State.toggleWb (s : State) : State :=
  let t := if s.ccr.wb then s.drainAll else s
  { t with ccr := { s.ccr with wb := !s.ccr.wb } }

/-- The I-cache replaced. -/
def State.setI (s : State) (c : Cache) : State := { s with icache := c }

/-- `CacheOp`: what an operation that is not ignored does (20_memory.md R114, R125 to R127). A fill of an absent local memory
changes nothing. -/
def State.cacheOp (s : State) (op : BitVec 5) (va : Word) : State :=
  let a := va.toNat
  let gi := s.iGeometry
  let gd := s.dGeometry
  match op.toNat with
  | 0x00 => s.setI (s.icache.prefetch s.mem gi a).1
  | 0x01 => s.setI (s.icache.prefetchLock s.mem gi a).1
  | 0x02 => s.setI (s.icache.invalidate gi a)
  | 0x08 => s.setFill (s.dcache.prefetch s.dataMem gd a)
  | 0x09 => s.setFill (s.dcache.prefetchLock s.dataMem gd a)
  | 0x0A => s.setDcache (s.dcache.invalidate gd a)
  | 0x0D => s.onHit a (s.dcache.writeOut s.dataMem gd a)
  | 0x0E => s.onHit a (s.dcache.flush s.dataMem gd a)
  | 0x10 => s.setI Cache.empty
  | 0x11 => { s with ccr := { s.ccr with ipfb := !s.ccr.ipfb } }
  | 0x18 => s.setDcache Cache.empty
  | 0x1A => s.drainAll
  | 0x1B => s.toggleWb
  | 0x1C => { s with ccr := { s.ccr with dpfb := !s.ccr.dpfb } }
  | 0x1D => { s with ccr := { s.ccr with wback := !s.ccr.wback } }
  | 0x1E => s.setD (s.dcache.writeOutAll s.dataMem)
  | 0x1F => s.setD (s.dcache.flushAll s.dataMem gd)
  | _ => s

/-- The effect of `cache`, or of nothing if the controller ignores it. -/
def State.cacheEffect (s : State) (op : BitVec 5) (va : Word) : State :=
  if s.cacheIgnored op va then s else s.cacheOp op va

/-- `cache`: RI for an undefined operation, then the address error, then the bus error of a prefetch or fill (45_system.md R485, 20_memory.md R125 to R130). -/
def execCache (op : BitVec 5) (ra : BitVec 5) (imm : BitVec 15) (s : State) : Result :=
  let va := s.offsetAddr ra imm
  if !cacheOpDefined op then raise .ri .w32 s
  else
    match s.cacheAddrError op va with
    | some x => raise x .w32 s
    | none =>
      if cacheLoads op && !s.cacheIgnored op va && s.busError .load va then raise .buselData .w32 s
      else if s.localMemoryOp op then .refused .localMemory
      else done .w32 (s.cacheEffect op va)

end Sys2Proof.Machine
end

