-- ==== Sys2Proof/Machine/Combine.lean ====
section
/-!
DEFINITION. The load and store combine instructions and the atomic pair (43_load_store.md R389 to R399).
-/
namespace Sys2Proof.Machine

/-- `byte` of the address in a register (43_load_store.md R389). -/
def State.combineOf (s : State) (ra : BitVec 5) : Nat := combineByte s.cfg.bigEndian (s.r ra)

/-- `wa`: the aligned word that holds the address in a register (43_load_store.md R389). -/
def State.combineWord (s : State) (ra : BitVec 5) : Word := wordAddr (s.r ra)

/-- The access of `scb`: from the address to the end of its word in big endian, from the start of the word to the address
in little endian (43_load_store.md R395). -/
def State.scbAccess (s : State) (ra : BitVec 5) : Acc :=
  ⟨if s.cfg.bigEndian then s.r ra else s.combineWord ra, 4 - s.combineOf ra, s.combineWord ra⟩

/-- The access of `sce`: the bytes of the word that `scb` at the same address would leave (43_load_store.md R397). -/
def State.sceAccess (s : State) (ra : BitVec 5) : Acc :=
  ⟨if s.cfg.bigEndian then s.combineWord ra else s.r ra + 1#32, s.combineOf ra, s.combineWord ra⟩

/-- `lcb` (43_load_store.md R390). -/
def execLcb (ra : BitVec 5) (s : State) : Result :=
  loadThen .w32 s (.at (s.combineWord ra) 4) none fun v t => State.setR { t with lcr := v } ra (s.r ra + 4#32)

/-- `lcw` (43_load_store.md R391, R363). -/
def execLcw (rd : BitVec 5) (ra : BitVec 5) (s : State) : Result :=
  loadThen .w32 s (.at (s.combineWord ra) 4) none fun v t =>
    State.setR2 { t with lcr := v } rd (combineLoad (s.combineOf ra) s.lcr v) ra (s.r ra + 4#32)

/-- `lce`: no access when byte is 0 (43_load_store.md R392, R363). -/
def execLce (rd : BitVec 5) (ra : BitVec 5) (s : State) : Result :=
  if s.combineOf ra = 0 then done .w32 (s.setR2 rd s.lcr ra (s.r ra + 4#32))
  else
    loadThen .w32 s (.at (s.combineWord ra) 4) none fun v t =>
      State.setR2 { t with lcr := v } rd (combineLoad (s.combineOf ra) s.lcr v) ra (s.r ra + 4#32)

/-- `scb` (43_load_store.md R395). -/
def execScb (rd : BitVec 5) (ra : BitVec 5) (s : State) : Result :=
  storeThen .w32 s (s.scbAccess ra) (s.r rd >>> (8 * s.combineOf ra)) none fun t =>
    State.setR { t with scr := rotateBytes (s.combineOf ra) (s.r rd) } ra (s.r ra + 4#32)

/-- `scw` (43_load_store.md R396). -/
def execScw (rd : BitVec 5) (ra : BitVec 5) (s : State) : Result :=
  storeThen .w32 s (.at (s.combineWord ra) 4) (combineStore (s.combineOf ra) s.scr (s.r rd)) none fun t =>
    State.setR { t with scr := rotateBytes (s.combineOf ra) (s.r rd) } ra (s.r ra + 4#32)

/-- `sce`: no access when byte is 0 (43_load_store.md R397). -/
def execSce (ra : BitVec 5) (s : State) : Result :=
  if s.combineOf ra = 0 then done .w32 (s.setR ra (s.r ra + 4#32))
  else
    storeThen .w32 s (s.sceAccess ra) (s.scr >>> (32 - 8 * s.combineOf ra)) none fun t => t.setR ra (s.r ra + 4#32)

/-- `alw` (43_load_store.md R398). -/
def execAlw (rd : BitVec 5) (ra : BitVec 5) (s : State) : Result :=
  loadThen .w32 s (.at (s.r ra) 4) none fun v t => State.setR { t with atbit := true } rd v

/-- `asw`: the address is checked always, the store made only with ATbit (43_load_store.md R399). -/
def execAsw (rd : BitVec 5) (ra : BitVec 5) (s : State) : Result :=
  if s.atbit then storeThen .w32 s (.at (s.r ra) 4) (s.r rd) none fun t => t.setR rd (boolWord true)
  else
    match s.addrError .store (s.r ra) 4 with
    | some x => raise x .w32 s
    | none => done .w32 (s.setR rd (boolWord false))

end Sys2Proof.Machine
end

