-- ==== Sys2Proof/Machine/Coprocessor.lean ====
section
/-!
DEFINITION. The coprocessor instructions (44_ce_cop.md R441 to R450).
-/
namespace Sys2Proof.Machine

/-- The number z of a coprocessor, as ECR.CE records it (10_state.md R40). -/
def copNumber : CopNum → BitVec 2
  | .cp1 => 1#2
  | .cp2 => 2#2
  | .cp3 => 3#2

/-- Bit z - 1 of a set of coprocessors. -/
def copBit (z : CopNum) (m : BitVec 3) : Bool := m.getLsbD ((copNumber z).toNat - 1)

/-- The registers of a coprocessor (10_state.md R54). -/
def State.cop (s : State) : CopNum → CopRegs
  | .cp1 => s.cop1
  | .cp2 => s.cop2
  | .cp3 => s.cop3

/-- Replace them. -/
def State.setCop (s : State) (z : CopNum) (c : CopRegs) : State :=
  match z with
  | .cp1 => { s with cop1 := c }
  | .cp2 => { s with cop2 := c }
  | .cp3 => { s with cop3 := c }

/-- `CopData(z)[CrA]` (44_ce_cop.md R441). -/
def State.copData (s : State) (z : CopNum) (cra : BitVec 5) : Word := (s.cop z).data[cra.toNat]'(cra.isLt)

/-- `CopCtrl(z)[CrA]` (44_ce_cop.md R441). -/
def State.copCtrl (s : State) (z : CopNum) (cra : BitVec 5) : Word := (s.cop z).ctrl[cra.toNat]'(cra.isLt)

/-- Write a data register. -/
def State.setCopData (s : State) (z : CopNum) (cra : BitVec 5) (v : Word) : State :=
  s.setCop z { s.cop z with data := (s.cop z).data.set cra.toNat v (cra.isLt) }

/-- Write a control register. -/
def State.setCopCtrl (s : State) (z : CopNum) (cra : BitVec 5) (v : Word) : State :=
  s.setCop z { s.cop z with ctrl := (s.cop z).ctrl.set cra.toNat v (cra.isLt) }

/-- The coprocessor's report, if it makes one (44_ce_cop.md R442 step 4). -/
def State.copReport? (s : State) (z : CopNum) : Option Exc :=
  if copBit z s.pins.copReport then some (.cpe (copNumber z)) else none

/-- The checks common to every coprocessor instruction: CCU, then RI (44_ce_cop.md R442 steps 1, 2). -/
def whenCop (z : CopNum) (s : State) (body : Result) : Result :=
  if !copBit z s.psr.cu then raise (.ccu (copNumber z)) .w32 s
  else if !copBit z s.cfg.copPresent then raise .ri .w32 s
  else body

/-- A coprocessor instruction that makes no memory access: the checks, then CpE if the coprocessor reports it. -/
def copThen (z : CopNum) (s : State) (body : State) : Result :=
  whenCop z s <|
    match s.copReport? z with
    | some x => raise x .w32 s
    | none => done .w32 body

/-- `mtcz` (44_ce_cop.md R443). -/
def copMoveTo (z : CopNum) (rd cra : BitVec 5) (s : State) : Result := copThen z s (s.setCopData z cra (s.r rd))

/-- `mfcz` (44_ce_cop.md R444). -/
def copMoveFrom (z : CopNum) (rd cra : BitVec 5) (s : State) : Result := copThen z s (s.setR rd (s.copData z cra))

/-- `mtccz` (44_ce_cop.md R445). -/
def copCtrlTo (z : CopNum) (rd cra : BitVec 5) (s : State) : Result := copThen z s (s.setCopCtrl z cra (s.r rd))

/-- `mfccz` (44_ce_cop.md R446). -/
def copCtrlFrom (z : CopNum) (rd cra : BitVec 5) (s : State) : Result := copThen z s (s.setR rd (s.copCtrl z cra))

/-- `ldcz` (44_ce_cop.md R447). -/
def copLoad (z : CopNum) (rd cra : BitVec 5) (imm : BitVec 10) (s : State) : Result :=
  whenCop z s (loadThen .w32 s (.at (s.copAddr rd imm) 4) (s.copReport? z) fun v t => t.setCopData z cra v)

/-- `stcz` (44_ce_cop.md R448). -/
def copStore (z : CopNum) (rd cra : BitVec 5) (imm : BitVec 10) (s : State) : Result :=
  whenCop z s (storeThen .w32 s (.at (s.copAddr rd imm) 4) (s.copData z cra) (s.copReport? z) id)

/-- `copz`, with the twenty bits of its operation (44_ce_cop.md R449, R450). -/
def copOperate (z : CopNum) (code : BitVec 20) (s : State) : Result :=
  copThen z s (s.setCop z (Config.copOp z code (s.cop z)))

/-- `mtc1` (44_ce_cop.md R443). -/
def execMtc1 (rd : BitVec 5) (cra : BitVec 5) (s : State) : Result := copMoveTo .cp1 rd cra s

/-- `mfc1` (44_ce_cop.md R444). -/
def execMfc1 (rd : BitVec 5) (cra : BitVec 5) (s : State) : Result := copMoveFrom .cp1 rd cra s

/-- `mtcc1` (44_ce_cop.md R445). -/
def execMtcc1 (rd : BitVec 5) (cra : BitVec 5) (s : State) : Result := copCtrlTo .cp1 rd cra s

/-- `mfcc1` (44_ce_cop.md R446). -/
def execMfcc1 (rd : BitVec 5) (cra : BitVec 5) (s : State) : Result := copCtrlFrom .cp1 rd cra s

/-- `ldc1` (44_ce_cop.md R447). -/
def execLdc1 (rd : BitVec 5) (cra : BitVec 5) (imm : BitVec 10) (s : State) : Result := copLoad .cp1 rd cra imm s

/-- `stc1` (44_ce_cop.md R448). -/
def execStc1 (rd : BitVec 5) (cra : BitVec 5) (imm : BitVec 10) (s : State) : Result := copStore .cp1 rd cra imm s

/-- `cop1` (44_ce_cop.md R449). -/
def execCop1 (crd : BitVec 5) (cra : BitVec 5) (crb : BitVec 5) (code : BitVec 5) (s : State) : Result :=
  copOperate .cp1 (crd ++ cra ++ crb ++ code) s

/-- `mtc2` (44_ce_cop.md R443). -/
def execMtc2 (rd : BitVec 5) (cra : BitVec 5) (s : State) : Result := copMoveTo .cp2 rd cra s

/-- `mfc2` (44_ce_cop.md R444). -/
def execMfc2 (rd : BitVec 5) (cra : BitVec 5) (s : State) : Result := copMoveFrom .cp2 rd cra s

/-- `mtcc2` (44_ce_cop.md R445). -/
def execMtcc2 (rd : BitVec 5) (cra : BitVec 5) (s : State) : Result := copCtrlTo .cp2 rd cra s

/-- `mfcc2` (44_ce_cop.md R446). -/
def execMfcc2 (rd : BitVec 5) (cra : BitVec 5) (s : State) : Result := copCtrlFrom .cp2 rd cra s

/-- `ldc2` (44_ce_cop.md R447). -/
def execLdc2 (rd : BitVec 5) (cra : BitVec 5) (imm : BitVec 10) (s : State) : Result := copLoad .cp2 rd cra imm s

/-- `stc2` (44_ce_cop.md R448). -/
def execStc2 (rd : BitVec 5) (cra : BitVec 5) (imm : BitVec 10) (s : State) : Result := copStore .cp2 rd cra imm s

/-- `cop2` (44_ce_cop.md R449). -/
def execCop2 (crd : BitVec 5) (cra : BitVec 5) (crb : BitVec 5) (code : BitVec 5) (s : State) : Result :=
  copOperate .cp2 (crd ++ cra ++ crb ++ code) s

/-- `mtc3` (44_ce_cop.md R443). -/
def execMtc3 (rd : BitVec 5) (cra : BitVec 5) (s : State) : Result := copMoveTo .cp3 rd cra s

/-- `mfc3` (44_ce_cop.md R444). -/
def execMfc3 (rd : BitVec 5) (cra : BitVec 5) (s : State) : Result := copMoveFrom .cp3 rd cra s

/-- `mtcc3` (44_ce_cop.md R445). -/
def execMtcc3 (rd : BitVec 5) (cra : BitVec 5) (s : State) : Result := copCtrlTo .cp3 rd cra s

/-- `mfcc3` (44_ce_cop.md R446). -/
def execMfcc3 (rd : BitVec 5) (cra : BitVec 5) (s : State) : Result := copCtrlFrom .cp3 rd cra s

/-- `ldc3` (44_ce_cop.md R447). -/
def execLdc3 (rd : BitVec 5) (cra : BitVec 5) (imm : BitVec 10) (s : State) : Result := copLoad .cp3 rd cra imm s

/-- `stc3` (44_ce_cop.md R448). -/
def execStc3 (rd : BitVec 5) (cra : BitVec 5) (imm : BitVec 10) (s : State) : Result := copStore .cp3 rd cra imm s

/-- `cop3` (44_ce_cop.md R449). -/
def execCop3 (crd : BitVec 5) (cra : BitVec 5) (crb : BitVec 5) (code : BitVec 5) (s : State) : Result :=
  copOperate .cp3 (crd ++ cra ++ crb ++ code) s

end Sys2Proof.Machine
end

