-- ==== Sys2Proof/Machine/CustomEngine.lean ====
section
/-!
DEFINITION. Multiply, divide, the moves of CEH and CEL, and `ceinst` (44_ce_cop.md R421 to R440).
-/
namespace Sys2Proof.Machine

/-- CEH and CEL written together. -/
def State.setCe (s : State) (h l : Word) : State := { s with ceh := h, cel := l }

/-- CEH and CEL hold any value: two free values (44_ce_cop.md R423, log 11). -/
def State.freeCe (s : State) : State :=
  { s with ceh := Config.freeWord s.freeCtr, cel := Config.freeWord (s.freeCtr + 1), freeCtr := s.freeCtr + 2 }

/-- A 64-bit product in CEH and CEL (44_ce_cop.md R421). -/
def State.setProduct (s : State) (p : BitVec 64) : State := s.setCe (p.extractLsb' 32 32) (p.extractLsb' 0 32)

/-- `mul` (44_ce_cop.md R421). -/
def execMul (ra : BitVec 5) (rb : BitVec 5) (s : State) : Result :=
  done .w32 (s.setProduct (BitVec.ofInt 64 ((s.r ra).toInt * (s.r rb).toInt)))

/-- `mulu` (44_ce_cop.md R422). -/
def execMulu (ra : BitVec 5) (rb : BitVec 5) (s : State) : Result :=
  done .w32 (s.setProduct (BitVec.ofNat 64 ((s.r ra).toNat * (s.r rb).toNat)))

/-- `div`: toward zero, the remainder with the sign of the dividend; the results of a division by zero, which raises CeE, and of
-2^31 / -1 are free (44_ce_cop.md R423, R424). -/
def execDiv (ra : BitVec 5) (rb : BitVec 5) (s : State) : Result :=
  if s.r rb = 0#32 then raise .cee .w32 s.freeCe
  else if s.r ra = 0x80000000#32 && s.r rb == 0xFFFFFFFF#32 then done .w32 s.freeCe
  else
    done .w32 (s.setCe (BitVec.ofInt 32 ((s.r ra).toInt.tmod (s.r rb).toInt))
      (BitVec.ofInt 32 ((s.r ra).toInt.tdiv (s.r rb).toInt)))

/-- `divu` (44_ce_cop.md R423, R425). -/
def execDivu (ra : BitVec 5) (rb : BitVec 5) (s : State) : Result :=
  if s.r rb = 0#32 then raise .cee .w32 s.freeCe
  else
    done .w32 (s.setCe (BitVec.ofNat 32 ((s.r ra).toNat % (s.r rb).toNat))
      (BitVec.ofNat 32 ((s.r ra).toNat / (s.r rb).toNat)))

/-- `mfcel` (44_ce_cop.md R431). -/
def execMfcel (rd : BitVec 5) (s : State) : Result := done .w32 (s.setR rd s.cel)

/-- `mfceh` (44_ce_cop.md R432). -/
def execMfceh (rd : BitVec 5) (s : State) : Result := done .w32 (s.setR rd s.ceh)

/-- `mfcehl` (44_ce_cop.md R433). -/
def execMfcehl (rd : BitVec 5) (ra : BitVec 5) (s : State) : Result := done .w32 (s.setR2 rd s.ceh ra s.cel)

/-- `mtcel` (44_ce_cop.md R434). -/
def execMtcel (rd : BitVec 5) (s : State) : Result := done .w32 (s.setCe s.ceh (s.r rd))

/-- `mtceh` (44_ce_cop.md R435). -/
def execMtceh (rd : BitVec 5) (s : State) : Result := done .w32 (s.setCe (s.r rd) s.cel)

/-- `mtcehl` (44_ce_cop.md R436). -/
def execMtcehl (rd : BitVec 5) (ra : BitVec 5) (s : State) : Result := done .w32 (s.setCe (s.r rd) (s.r ra))

/-- The general registers an implemented extension writes: the ones its USD fields name as destinations; both in one register
leave it free (44_ce_cop.md R440, log 13, log 25). -/
def State.putUsd (s : State) (usd1 usd2 : BitVec 5) (x : CeResult) : State :=
  match x.usd1, x.usd2 with
  | some v, some w => s.setR2 usd1 v usd2 w
  | some v, none => s.setR usd1 v
  | none, some w => s.setR usd2 w
  | none, none => s

/-- What an implemented extension leaves: its destination registers, CEH and CEL (44_ce_cop.md R440, log 25). -/
def State.putCe (s : State) (usd1 usd2 : BitVec 5) (x : CeResult) : State :=
  (s.setCe (x.ceHigh.getD s.ceh) (x.ceLow.getD s.cel)).putUsd usd1 usd2 x

/-- `ceinst`: RI unless the extension implements func5, CeE when it reports an exception (44_ce_cop.md R440, R643). -/
def execCeinst (usd1 : BitVec 5) (ra : BitVec 5) (rb : BitVec 5) (usd2 : BitVec 5) (func5 : BitVec 5)
    (s : State) : Result :=
  if !s.cfg.ceFuncs.contains func5 then raise .ri .w32 s
  else if s.pins.ceReport then raise .cee .w32 s
  else done .w32 (s.putCe usd1 usd2 (Config.ceOp func5 usd1 usd2 ra rb (s.r ra) (s.r rb)))

end Sys2Proof.Machine
end

