-- ==== Sys2Proof/Machine/LoadStore.lean ====
section
/-!
DEFINITION. The 32-bit loads and stores in their three addressing modes (43_load_store.md R364 to R387).
-/
namespace Sys2Proof.Machine

/-- `lw`, offset (43_load_store.md R364). -/
def execLw (rd : BitVec 5) (ra : BitVec 5) (imm : BitVec 15) (s : State) : Result :=
  loadThen .w32 s (.at (s.offsetAddr ra imm) 4) none fun v t => t.setR rd v

/-- `lw`, pre-index (43_load_store.md R365, R363). -/
def execLwPre (rd : BitVec 5) (ra : BitVec 5) (imm : BitVec 12) (s : State) : Result :=
  loadThen .w32 s (.at (s.indexedBase ra imm) 4) none fun v t =>
    t.setR2 rd v ra (s.indexedBase ra imm)

/-- `lw`, post-index (43_load_store.md R366, R363). -/
def execLwPost (rd : BitVec 5) (ra : BitVec 5) (imm : BitVec 12) (s : State) : Result :=
  loadThen .w32 s (.at (s.r ra) 4) none fun v t => t.setR2 rd v ra (s.indexedBase ra imm)

/-- `lh`, offset (43_load_store.md R367). -/
def execLh (rd : BitVec 5) (ra : BitVec 5) (imm : BitVec 15) (s : State) : Result :=
  loadThen .w32 s (.at (s.offsetAddr ra imm) 2) none fun v t => t.setR rd (sext16 v)

/-- `lh`, pre-index (43_load_store.md R368, R363). -/
def execLhPre (rd : BitVec 5) (ra : BitVec 5) (imm : BitVec 12) (s : State) : Result :=
  loadThen .w32 s (.at (s.indexedBase ra imm) 2) none fun v t =>
    t.setR2 rd (sext16 v) ra (s.indexedBase ra imm)

/-- `lh`, post-index (43_load_store.md R369, R363). -/
def execLhPost (rd : BitVec 5) (ra : BitVec 5) (imm : BitVec 12) (s : State) : Result :=
  loadThen .w32 s (.at (s.r ra) 2) none fun v t => t.setR2 rd (sext16 v) ra (s.indexedBase ra imm)

/-- `lhu`, offset (43_load_store.md R370). -/
def execLhu (rd : BitVec 5) (ra : BitVec 5) (imm : BitVec 15) (s : State) : Result :=
  loadThen .w32 s (.at (s.offsetAddr ra imm) 2) none fun v t => t.setR rd (zext16 v)

/-- `lhu`, pre-index (43_load_store.md R371, R363). -/
def execLhuPre (rd : BitVec 5) (ra : BitVec 5) (imm : BitVec 12) (s : State) : Result :=
  loadThen .w32 s (.at (s.indexedBase ra imm) 2) none fun v t =>
    t.setR2 rd (zext16 v) ra (s.indexedBase ra imm)

/-- `lhu`, post-index (43_load_store.md R372, R363). -/
def execLhuPost (rd : BitVec 5) (ra : BitVec 5) (imm : BitVec 12) (s : State) : Result :=
  loadThen .w32 s (.at (s.r ra) 2) none fun v t => t.setR2 rd (zext16 v) ra (s.indexedBase ra imm)

/-- `lb`, offset (43_load_store.md R373). -/
def execLb (rd : BitVec 5) (ra : BitVec 5) (imm : BitVec 15) (s : State) : Result :=
  loadThen .w32 s (.at (s.offsetAddr ra imm) 1) none fun v t => t.setR rd (sext8 v)

/-- `lb`, pre-index (43_load_store.md R374, R363). -/
def execLbPre (rd : BitVec 5) (ra : BitVec 5) (imm : BitVec 12) (s : State) : Result :=
  loadThen .w32 s (.at (s.indexedBase ra imm) 1) none fun v t =>
    t.setR2 rd (sext8 v) ra (s.indexedBase ra imm)

/-- `lb`, post-index (43_load_store.md R375, R363). -/
def execLbPost (rd : BitVec 5) (ra : BitVec 5) (imm : BitVec 12) (s : State) : Result :=
  loadThen .w32 s (.at (s.r ra) 1) none fun v t => t.setR2 rd (sext8 v) ra (s.indexedBase ra imm)

/-- `lbu`, offset (43_load_store.md R376). -/
def execLbu (rd : BitVec 5) (ra : BitVec 5) (imm : BitVec 15) (s : State) : Result :=
  loadThen .w32 s (.at (s.offsetAddr ra imm) 1) none fun v t => t.setR rd (zext8 v)

/-- `lbu`, pre-index (43_load_store.md R377, R363). -/
def execLbuPre (rd : BitVec 5) (ra : BitVec 5) (imm : BitVec 12) (s : State) : Result :=
  loadThen .w32 s (.at (s.indexedBase ra imm) 1) none fun v t =>
    t.setR2 rd (zext8 v) ra (s.indexedBase ra imm)

/-- `lbu`, post-index (43_load_store.md R378, R363). -/
def execLbuPost (rd : BitVec 5) (ra : BitVec 5) (imm : BitVec 12) (s : State) : Result :=
  loadThen .w32 s (.at (s.r ra) 1) none fun v t => t.setR2 rd (zext8 v) ra (s.indexedBase ra imm)

/-- `sw`, offset (43_load_store.md R379). -/
def execSw (rd : BitVec 5) (ra : BitVec 5) (imm : BitVec 15) (s : State) : Result :=
  storeThen .w32 s (.at (s.offsetAddr ra imm) 4) (s.r rd) none id

/-- `sw`, pre-index (43_load_store.md R380, R363). -/
def execSwPre (rd : BitVec 5) (ra : BitVec 5) (imm : BitVec 12) (s : State) : Result :=
  storeThen .w32 s (.at (s.indexedBase ra imm) 4) (s.r rd) none fun t => t.setR ra (s.indexedBase ra imm)

/-- `sw`, post-index (43_load_store.md R381, R363). -/
def execSwPost (rd : BitVec 5) (ra : BitVec 5) (imm : BitVec 12) (s : State) : Result :=
  storeThen .w32 s (.at (s.r ra) 4) (s.r rd) none fun t => t.setR ra (s.indexedBase ra imm)

/-- `sh`, offset (43_load_store.md R382). -/
def execSh (rd : BitVec 5) (ra : BitVec 5) (imm : BitVec 15) (s : State) : Result :=
  storeThen .w32 s (.at (s.offsetAddr ra imm) 2) (s.r rd) none id

/-- `sh`, pre-index (43_load_store.md R383, R363). -/
def execShPre (rd : BitVec 5) (ra : BitVec 5) (imm : BitVec 12) (s : State) : Result :=
  storeThen .w32 s (.at (s.indexedBase ra imm) 2) (s.r rd) none fun t => t.setR ra (s.indexedBase ra imm)

/-- `sh`, post-index (43_load_store.md R384, R363). -/
def execShPost (rd : BitVec 5) (ra : BitVec 5) (imm : BitVec 12) (s : State) : Result :=
  storeThen .w32 s (.at (s.r ra) 2) (s.r rd) none fun t => t.setR ra (s.indexedBase ra imm)

/-- `sb`, offset (43_load_store.md R385). -/
def execSb (rd : BitVec 5) (ra : BitVec 5) (imm : BitVec 15) (s : State) : Result :=
  storeThen .w32 s (.at (s.offsetAddr ra imm) 1) (s.r rd) none id

/-- `sb`, pre-index (43_load_store.md R386, R363). -/
def execSbPre (rd : BitVec 5) (ra : BitVec 5) (imm : BitVec 12) (s : State) : Result :=
  storeThen .w32 s (.at (s.indexedBase ra imm) 1) (s.r rd) none fun t => t.setR ra (s.indexedBase ra imm)

/-- `sb`, post-index (43_load_store.md R387, R363). -/
def execSbPost (rd : BitVec 5) (ra : BitVec 5) (imm : BitVec 12) (s : State) : Result :=
  storeThen .w32 s (.at (s.r ra) 1) (s.r rd) none fun t => t.setR ra (s.indexedBase ra imm)

end Sys2Proof.Machine
end

