-- ==== Sys2Proof/Machine/Logic.lean ====
section
/-!
DEFINITION. The 32-bit logical, bit, load-immediate and no-operation instructions (40_arith_logic.md R245 to R272).
-/
namespace Sys2Proof.Machine

/-- `and` (40_arith_logic.md R245). -/
def execAnd (rd : BitVec 5) (ra : BitVec 5) (rb : BitVec 5) (cu : Bool) (s : State) : Result :=
  done .w32 (s.putLogic rd (s.r ra &&& s.r rb) cu)

/-- `or` (40_arith_logic.md R249). -/
def execOr (rd : BitVec 5) (ra : BitVec 5) (rb : BitVec 5) (cu : Bool) (s : State) : Result :=
  done .w32 (s.putLogic rd (s.r ra ||| s.r rb) cu)

/-- `xor` (40_arith_logic.md R253). -/
def execXor (rd : BitVec 5) (ra : BitVec 5) (rb : BitVec 5) (cu : Bool) (s : State) : Result :=
  done .w32 (s.putLogic rd (s.r ra ^^^ s.r rb) cu)

/-- `not` (40_arith_logic.md R254). -/
def execNot (rd : BitVec 5) (ra : BitVec 5) (cu : Bool) (s : State) : Result :=
  done .w32 (s.putLogic rd (~~~(s.r ra)) cu)

/-- `andi` (40_arith_logic.md R246). -/
def execAndi (rd : BitVec 5) (imm : BitVec 16) (cu : Bool) (s : State) : Result :=
  done .w32 (s.putLogic rd (s.r rd &&& zext imm) cu)

/-- `andis` (40_arith_logic.md R247). -/
def execAndis (rd : BitVec 5) (imm : BitVec 16) (cu : Bool) (s : State) : Result :=
  done .w32 (s.putLogic rd (s.r rd &&& immShifted imm) cu)

/-- `andri` (40_arith_logic.md R248). -/
def execAndri (rd : BitVec 5) (ra : BitVec 5) (imm : BitVec 14) (cu : Bool) (s : State) : Result :=
  done .w32 (s.putLogic rd (s.r ra &&& zext imm) cu)

/-- `ori` (40_arith_logic.md R250). -/
def execOri (rd : BitVec 5) (imm : BitVec 16) (cu : Bool) (s : State) : Result :=
  done .w32 (s.putLogic rd (s.r rd ||| zext imm) cu)

/-- `oris` (40_arith_logic.md R251). -/
def execOris (rd : BitVec 5) (imm : BitVec 16) (cu : Bool) (s : State) : Result :=
  done .w32 (s.putLogic rd (s.r rd ||| immShifted imm) cu)

/-- `orri` (40_arith_logic.md R252). -/
def execOrri (rd : BitVec 5) (ra : BitVec 5) (imm : BitVec 14) (cu : Bool) (s : State) : Result :=
  done .w32 (s.putLogic rd (s.r ra ||| zext imm) cu)

/-- The bit that a bit number names, as a word (40_arith_logic.md R263). -/
def bitMask (bn : BitVec 5) : Word := 1#32 <<< bn.toNat

/-- `bitclr.c` (40_arith_logic.md R263). -/
def execBitclr (rd : BitVec 5) (ra : BitVec 5) (bn : BitVec 5) (s : State) : Result :=
  done .w32 (s.putBitop rd (s.r ra &&& ~~~(bitMask bn)) ((s.r ra).getLsbD bn.toNat))

/-- `bitset.c` (40_arith_logic.md R264). -/
def execBitset (rd : BitVec 5) (ra : BitVec 5) (bn : BitVec 5) (s : State) : Result :=
  done .w32 (s.putBitop rd (s.r ra ||| bitMask bn) ((s.r ra).getLsbD bn.toNat))

/-- `bittgl.c` (40_arith_logic.md R265). -/
def execBittgl (rd : BitVec 5) (ra : BitVec 5) (bn : BitVec 5) (s : State) : Result :=
  done .w32 (s.putBitop rd (s.r ra ^^^ bitMask bn) ((s.r ra).getLsbD bn.toNat))

/-- `bittst.c`: no register is written (40_arith_logic.md R266). -/
def execBittst (ra : BitVec 5) (bn : BitVec 5) (s : State) : Result :=
  done .w32 (s.setFlags (s.flags.bitop s.cfg.bitopFlagsTrm (s.r ra) ((s.r ra).getLsbD bn.toNat)))

/-- `ldi` (40_arith_logic.md R270). -/
def execLdi (rd : BitVec 5) (imm : BitVec 16) (s : State) : Result := done .w32 (s.setR rd (sext imm))

/-- `ldis` (40_arith_logic.md R271). -/
def execLdis (rd : BitVec 5) (imm : BitVec 16) (s : State) : Result := done .w32 (s.setR rd (immShifted imm))

/-- `nop` (40_arith_logic.md R272). -/
def execNop (s : State) : Result := done .w32 s

end Sys2Proof.Machine
end

