-- ==== Sys2Proof/Machine/Move.lean ====
section
/-!
DEFINITION. The 32-bit extension, move, special-register and T-flag instructions (41_shift_ext_move.md R301 to R320).
-/
namespace Sys2Proof.Machine

/-- `extsb` (41_shift_ext_move.md R301). -/
def execExtsb (rd : BitVec 5) (ra : BitVec 5) (cu : Bool) (s : State) : Result :=
  done .w32 (s.putExt rd (sext8 (s.r ra)) cu)

/-- `extsh` (41_shift_ext_move.md R302). -/
def execExtsh (rd : BitVec 5) (ra : BitVec 5) (cu : Bool) (s : State) : Result :=
  done .w32 (s.putExt rd (sext16 (s.r ra)) cu)

/-- `extzb` (41_shift_ext_move.md R303). -/
def execExtzb (rd : BitVec 5) (ra : BitVec 5) (cu : Bool) (s : State) : Result :=
  done .w32 (s.putExt rd (zext8 (s.r ra)) cu)

/-- `extzh` (41_shift_ext_move.md R304). -/
def execExtzh (rd : BitVec 5) (ra : BitVec 5) (cu : Bool) (s : State) : Result :=
  done .w32 (s.putExt rd (zext16 (s.r ra)) cu)

/-- `mv<cond>`; EC = 14 is reserved (41_shift_ext_move.md R310, 30_encoding.md R203). -/
def execMvcond (rd : BitVec 5) (ra : BitVec 5) (ec : Cond) (s : State) : Result :=
  if ec = .cnz then .refused .reservedMoveCondition
  else if s.condHolds ec then done .w32 (s.setR rd (s.r ra))
  else done .w32 s

/-- `mfsr`; the numbers without a register raise RI (41_shift_ext_move.md R315, R318; log 17). -/
def execMfsr (rd : BitVec 5) (srn : BitVec 5) (s : State) : Result :=
  match srn.toNat with
  | 0 => done .w32 (s.setR rd s.cnt)
  | 1 => done .w32 (s.setR rd s.lcr)
  | 2 => done .w32 (s.setR rd s.scr)
  | _ => raise .ri .w32 s

/-- `mtsr`; the numbers without a register raise RI (41_shift_ext_move.md R316, R318; log 17). -/
def execMtsr (ra : BitVec 5) (srn : BitVec 5) (s : State) : Result :=
  match srn.toNat with
  | 0 => done .w32 { s with cnt := s.r ra }
  | 1 => done .w32 { s with lcr := s.r ra }
  | 2 => done .w32 { s with scr := s.r ra }
  | _ => raise .ri .w32 s

/-- T takes a condition (41_shift_ext_move.md R320). -/
def State.setT (s : State) (ec : Cond) : State := s.setFlags { s.flags with t := s.condHolds ec }

/-- `t<cond>`: CNT is not decremented (41_shift_ext_move.md R320). -/
def execTcond (ec : Cond) (s : State) : Result := done .w32 (s.setT ec)

end Sys2Proof.Machine
end

