-- ==== Sys2Proof/Machine/Shift.lean ====
section
/-!
DEFINITION. The 32-bit shift and rotate instructions (41_shift_ext_move.md R282 to R298).
-/
namespace Sys2Proof.Machine

/-- `sll` (41_shift_ext_move.md R282). -/
def execSll (rd : BitVec 5) (ra : BitVec 5) (rb : BitVec 5) (cu : Bool) (s : State) : Result :=
  done .w32 (s.putShift rd (shiftLeft (s.r ra) (shiftAmount (s.r rb))) cu)

/-- `slli` (41_shift_ext_move.md R283). -/
def execSlli (rd : BitVec 5) (ra : BitVec 5) (sa : BitVec 5) (cu : Bool) (s : State) : Result :=
  done .w32 (s.putShift rd (shiftLeft (s.r ra) sa) cu)

/-- `srl` (41_shift_ext_move.md R284). -/
def execSrl (rd : BitVec 5) (ra : BitVec 5) (rb : BitVec 5) (cu : Bool) (s : State) : Result :=
  done .w32 (s.putShift rd (shiftRight (s.r ra) (shiftAmount (s.r rb))) cu)

/-- `srli` (41_shift_ext_move.md R285). -/
def execSrli (rd : BitVec 5) (ra : BitVec 5) (sa : BitVec 5) (cu : Bool) (s : State) : Result :=
  done .w32 (s.putShift rd (shiftRight (s.r ra) sa) cu)

/-- `sra` (41_shift_ext_move.md R286). -/
def execSra (rd : BitVec 5) (ra : BitVec 5) (rb : BitVec 5) (cu : Bool) (s : State) : Result :=
  done .w32 (s.putShift rd (shiftRightArith (s.r ra) (shiftAmount (s.r rb))) cu)

/-- `srai` (41_shift_ext_move.md R287). -/
def execSrai (rd : BitVec 5) (ra : BitVec 5) (sa : BitVec 5) (cu : Bool) (s : State) : Result :=
  done .w32 (s.putShift rd (shiftRightArith (s.r ra) sa) cu)

/-- `rol` (41_shift_ext_move.md R291). -/
def execRol (rd : BitVec 5) (ra : BitVec 5) (rb : BitVec 5) (cu : Bool) (s : State) : Result :=
  done .w32 (s.putRotate rd (rotLeft (s.r ra) (shiftAmount (s.r rb))) cu)

/-- `roli` (41_shift_ext_move.md R292). -/
def execRoli (rd : BitVec 5) (ra : BitVec 5) (sa : BitVec 5) (cu : Bool) (s : State) : Result :=
  done .w32 (s.putRotate rd (rotLeft (s.r ra) sa) cu)

/-- `ror` (41_shift_ext_move.md R293). -/
def execRor (rd : BitVec 5) (ra : BitVec 5) (rb : BitVec 5) (cu : Bool) (s : State) : Result :=
  done .w32 (s.putRotate rd (rotRight (s.r ra) (shiftAmount (s.r rb))) cu)

/-- `rori` (41_shift_ext_move.md R294). -/
def execRori (rd : BitVec 5) (ra : BitVec 5) (sa : BitVec 5) (cu : Bool) (s : State) : Result :=
  done .w32 (s.putRotate rd (rotRight (s.r ra) sa) cu)

/-- `rolc.c` (41_shift_ext_move.md R295). -/
def execRolc (rd : BitVec 5) (ra : BitVec 5) (rb : BitVec 5) (s : State) : Result :=
  done .w32 (s.putRotate rd (rotLeftCarry (s.r ra) s.flags.c (shiftAmount (s.r rb))) true)

/-- `rolic.c` (41_shift_ext_move.md R296). -/
def execRolic (rd : BitVec 5) (ra : BitVec 5) (sa : BitVec 5) (s : State) : Result :=
  done .w32 (s.putRotate rd (rotLeftCarry (s.r ra) s.flags.c sa) true)

/-- `rorc.c` (41_shift_ext_move.md R297). -/
def execRorc (rd : BitVec 5) (ra : BitVec 5) (rb : BitVec 5) (s : State) : Result :=
  done .w32 (s.putRotate rd (rotRightCarry (s.r ra) s.flags.c (shiftAmount (s.r rb))) true)

/-- `roric.c` (41_shift_ext_move.md R298). -/
def execRoric (rd : BitVec 5) (ra : BitVec 5) (sa : BitVec 5) (s : State) : Result :=
  done .w32 (s.putRotate rd (rotRightCarry (s.r ra) s.flags.c sa) true)

end Sys2Proof.Machine
end

