-- ==== Sys2Proof/Machine/Short.lean ====
section
/-!
DEFINITION. The 16-bit data-processing instructions (46_16bit.md R515 to R541).
-/
namespace Sys2Proof.Machine

/-- `add!` (46_16bit.md R515). -/
def execAdd16 (rd : BitVec 4) (ra : BitVec 4) (s : State) : Result :=
  done .w16 (s.putArith (g0 rd) (addWith (s.r (g0 rd)) (s.r (g0 ra)) false) true)

/-- `addc!` (46_16bit.md R516). -/
def execAddc16 (rd : BitVec 4) (ra : BitVec 4) (s : State) : Result :=
  done .w16 (s.putArith (g0 rd) (addWith (s.r (g0 rd)) (s.r (g0 ra)) s.flags.c) true)

/-- `sub!` (46_16bit.md R517). -/
def execSub16 (rd : BitVec 4) (ra : BitVec 4) (s : State) : Result :=
  done .w16 (s.putArith (g0 rd) (subWith (s.r (g0 rd)) (s.r (g0 ra)) false) true)

/-- `neg!` (46_16bit.md R519). -/
def execNeg16 (rd : BitVec 4) (ra : BitVec 4) (s : State) : Result :=
  done .w16 (s.putArith (g0 rd) (subWith 0#32 (s.r (g0 ra)) false) true)

/-- `cmp!`: T is unchanged (46_16bit.md R518). -/
def execCmp16 (rd : BitVec 4) (ra : BitVec 4) (s : State) : Result :=
  done .w16 (s.setFlags (s.flags.arith (subWith (s.r (g0 rd)) (s.r (g0 ra)) false)))

/-- `addei!` (46_16bit.md R520). -/
def execAddei16 (rd : BitVec 4) (exp : BitVec 4) (s : State) : Result :=
  done .w16 (s.putArith (g0 rd) (addWith (s.r (g0 rd)) (expImm exp) false) true)

/-- `subei!` (46_16bit.md R521). -/
def execSubei16 (rd : BitVec 4) (exp : BitVec 4) (s : State) : Result :=
  done .w16 (s.putArith (g0 rd) (subWith (s.r (g0 rd)) (expImm exp) false) true)

/-- `mv!` (46_16bit.md R522). -/
def execMv16 (rd : BitVec 4) (ra : BitVec 4) (s : State) : Result := done .w16 (s.setR (g0 rd) (s.r (g0 ra)))

/-- `mhfl!` (46_16bit.md R524). -/
def execMhfl16 (rd : BitVec 4) (ra : BitVec 4) (s : State) : Result := done .w16 (s.setR (g1 rd) (s.r (g0 ra)))

/-- `mlfh!` (46_16bit.md R525). -/
def execMlfh16 (rd : BitVec 4) (ra : BitVec 4) (s : State) : Result := done .w16 (s.setR (g0 rd) (s.r (g1 ra)))

/-- `ldiu!` (46_16bit.md R523). -/
def execLdiu16 (rd : BitVec 4) (imm : BitVec 8) (s : State) : Result := done .w16 (s.setR (g0 rd) (zext imm))

/-- `nop!` (46_16bit.md R526). -/
def execNop16 (s : State) : Result := done .w16 s

/-- `and!` (46_16bit.md R527). -/
def execAnd16 (rd : BitVec 4) (ra : BitVec 4) (s : State) : Result :=
  done .w16 (s.putLogic (g0 rd) (s.r (g0 rd) &&& s.r (g0 ra)) true)

/-- `or!` (46_16bit.md R528). -/
def execOr16 (rd : BitVec 4) (ra : BitVec 4) (s : State) : Result :=
  done .w16 (s.putLogic (g0 rd) (s.r (g0 rd) ||| s.r (g0 ra)) true)

/-- `xor!` (46_16bit.md R529). -/
def execXor16 (rd : BitVec 4) (ra : BitVec 4) (s : State) : Result :=
  done .w16 (s.putLogic (g0 rd) (s.r (g0 rd) ^^^ s.r (g0 ra)) true)

/-- `not!` (46_16bit.md R530). -/
def execNot16 (rd : BitVec 4) (ra : BitVec 4) (s : State) : Result :=
  done .w16 (s.putLogic (g0 rd) (~~~(s.r (g0 ra))) true)

/-- `bitclr!` (46_16bit.md R532, R531). -/
def execBitclr16 (rd : BitVec 4) (bn : BitVec 5) (s : State) : Result :=
  done .w16 (s.putBitop (g0 rd) (s.r (g0 rd) &&& ~~~(bitMask bn)) ((s.r (g0 rd)).getLsbD bn.toNat))

/-- `bitset!` (46_16bit.md R533, R531). -/
def execBitset16 (rd : BitVec 4) (bn : BitVec 5) (s : State) : Result :=
  done .w16 (s.putBitop (g0 rd) (s.r (g0 rd) ||| bitMask bn) ((s.r (g0 rd)).getLsbD bn.toNat))

/-- `bittgl!` (46_16bit.md R534, R531). -/
def execBittgl16 (rd : BitVec 4) (bn : BitVec 5) (s : State) : Result :=
  done .w16 (s.putBitop (g0 rd) (s.r (g0 rd) ^^^ bitMask bn) ((s.r (g0 rd)).getLsbD bn.toNat))

/-- `bittst!` (46_16bit.md R535, R531). -/
def execBittst16 (rd : BitVec 4) (bn : BitVec 5) (s : State) : Result :=
  done .w16 (s.setFlags (s.flags.bitop s.cfg.bitopFlagsTrm (s.r (g0 rd)) ((s.r (g0 rd)).getLsbD bn.toNat)))

/-- `sll!` (46_16bit.md R536). -/
def execSll16 (rd : BitVec 4) (ra : BitVec 4) (s : State) : Result :=
  done .w16 (s.putShift (g0 rd) (shiftLeft (s.r (g0 rd)) (shiftAmount (s.r (g0 ra)))) true)

/-- `srl!` (46_16bit.md R537). -/
def execSrl16 (rd : BitVec 4) (ra : BitVec 4) (s : State) : Result :=
  done .w16 (s.putShift (g0 rd) (shiftRight (s.r (g0 rd)) (shiftAmount (s.r (g0 ra)))) true)

/-- `sra!` (46_16bit.md R538). -/
def execSra16 (rd : BitVec 4) (ra : BitVec 4) (s : State) : Result :=
  done .w16 (s.putShift (g0 rd) (shiftRightArith (s.r (g0 rd)) (shiftAmount (s.r (g0 ra)))) true)

/-- `slli!` (46_16bit.md R539). -/
def execSlli16 (rd : BitVec 4) (sa : BitVec 5) (s : State) : Result :=
  done .w16 (s.putShift (g0 rd) (shiftLeft (s.r (g0 rd)) sa) true)

/-- `srli!` (46_16bit.md R540). -/
def execSrli16 (rd : BitVec 4) (sa : BitVec 5) (s : State) : Result :=
  done .w16 (s.putShift (g0 rd) (shiftRight (s.r (g0 rd)) sa) true)

/-- `t<cond>!` (46_16bit.md R541). -/
def execTcond16 (ec : Cond) (s : State) : Result := done .w16 (s.setT ec)

end Sys2Proof.Machine
end

