-- ==== Sys2Proof/Machine/ShortMem.lean ====
section
/-!
DEFINITION. The 16-bit loads and stores (46_16bit.md R547 to R567).
-/
namespace Sys2Proof.Machine

/-- `lwp!` (46_16bit.md R550). -/
def execLwp16 (rd : BitVec 4) (imm : BitVec 5) (s : State) : Result :=
  loadThen .w16 s (.at (s.bpAddr imm 2) 4) none fun v t => t.setR (g0 rd) v

/-- `lhp!` (46_16bit.md R551). -/
def execLhp16 (rd : BitVec 4) (imm : BitVec 5) (s : State) : Result :=
  loadThen .w16 s (.at (s.bpAddr imm 1) 2) none fun v t => t.setR (g0 rd) (sext16 v)

/-- `lbup!` (46_16bit.md R552). -/
def execLbup16 (rd : BitVec 4) (imm : BitVec 5) (s : State) : Result :=
  loadThen .w16 s (.at (s.bpAddr imm 0) 1) none fun v t => t.setR (g0 rd) (zext8 v)

/-- `swp!` (46_16bit.md R553). -/
def execSwp16 (rd : BitVec 4) (imm : BitVec 5) (s : State) : Result :=
  storeThen .w16 s (.at (s.bpAddr imm 2) 4) (s.r (g0 rd)) none id

/-- `shp!` (46_16bit.md R554). -/
def execShp16 (rd : BitVec 4) (imm : BitVec 5) (s : State) : Result :=
  storeThen .w16 s (.at (s.bpAddr imm 1) 2) (s.r (g0 rd)) none id

/-- `sbp!` (46_16bit.md R555). -/
def execSbp16 (rd : BitVec 4) (imm : BitVec 5) (s : State) : Result :=
  storeThen .w16 s (.at (s.bpAddr imm 0) 1) (s.r (g0 rd)) none id

/-- `push!`: the value is read before the base is written (46_16bit.md R560). -/
def execPush16 (rd : BitVec 5) (ra : BitVec 3) (s : State) : Result :=
  storeThen .w16 s (.at (s.pushAddr ra) 4) (s.r rd) none fun t => t.setR (gBase ra) (s.pushAddr ra)

/-- `pop!` (46_16bit.md R561, 43_load_store.md R363). -/
def execPop16 (rd : BitVec 5) (ra : BitVec 3) (s : State) : Result :=
  loadThen .w16 s (.at (s.r (gBase ra)) 4) none fun v t => t.setR2 rd v (gBase ra) (s.r (gBase ra) + 4#32)

/-- `lw!` (46_16bit.md R562). -/
def execLw16 (rd : BitVec 4) (ra : BitVec 4) (s : State) : Result :=
  loadThen .w16 s (.at (s.r (g0 ra)) 4) none fun v t => t.setR (g0 rd) v

/-- `lh!` (46_16bit.md R563). -/
def execLh16 (rd : BitVec 4) (ra : BitVec 4) (s : State) : Result :=
  loadThen .w16 s (.at (s.r (g0 ra)) 2) none fun v t => t.setR (g0 rd) (sext16 v)

/-- `lbu!` (46_16bit.md R564). -/
def execLbu16 (rd : BitVec 4) (ra : BitVec 4) (s : State) : Result :=
  loadThen .w16 s (.at (s.r (g0 ra)) 1) none fun v t => t.setR (g0 rd) (zext8 v)

/-- `sw!` (46_16bit.md R565). -/
def execSw16 (rd : BitVec 4) (ra : BitVec 4) (s : State) : Result :=
  storeThen .w16 s (.at (s.r (g0 ra)) 4) (s.r (g0 rd)) none id

/-- `sh!` (46_16bit.md R566). -/
def execSh16 (rd : BitVec 4) (ra : BitVec 4) (s : State) : Result :=
  storeThen .w16 s (.at (s.r (g0 ra)) 2) (s.r (g0 rd)) none id

/-- `sb!` (46_16bit.md R567). -/
def execSb16 (rd : BitVec 4) (ra : BitVec 4) (s : State) : Result :=
  storeThen .w16 s (.at (s.r (g0 ra)) 1) (s.r (g0 rd)) none id

end Sys2Proof.Machine
end

