-- ==== Sys2Proof/Machine/System.lean ====
section
/-!
DEFINITION. The system instructions of both widths (45_system.md R461 to R495, 46_16bit.md R570).
-/
namespace Sys2Proof.Machine

/-- `syscall`: the parameter is copied nowhere (45_system.md R461). -/
def execSyscall (_spar : BitVec 15) (s : State) : Result := raise .syscall .w32 s

/-- `trap<cond>`: EC = 14 does nothing; with `TRAP_PRIVILEGED` the privilege test comes first (45_system.md R462). -/
def execTrapcond (_swp : BitVec 5) (ec : Cond) (s : State) : Result :=
  if s.cfg.trapPrivileged && !s.crOk then raise (.ccu 0#2) .w32 s
  else if ec = .cnz then done .w32 s
  else if s.condHolds ec then raise .trap .w32 s
  else done .w32 s

/-- `sdbbp`: nothing in debug mode (45_system.md R465). -/
def execSdbbp (_code : BitVec 5) (s : State) : Result :=
  if s.dreg.dm then done .w32 s else .next (debugEnter .dbp .w32 s)

/-- `sdbbp!`: nothing in debug mode (46_16bit.md R570). -/
def execSdbbp16 (_code : BitVec 5) (s : State) : Result :=
  if s.dreg.dm then done .w16 s else .next (debugEnter .dbp .w16 s)

/-- `pflush` (45_system.md R490, R491). -/
def execPflush (s : State) : Result := done .w32 s

/-- `rte` (45_system.md R470). -/
def execRte (s : State) : Result := whenCrOk s (.next (returnFromException s))

/-- `drte` (45_system.md R472). -/
def execDrte (s : State) : Result := whenCrOk s (.next (returnFromDebug s))

/-- `sleep` (45_system.md R476). -/
def execSleep (s : State) : Result := whenCrOk s (done .w32 { s with sleeping := true })

/-- `mfcr`; the numbers without a register raise RI (45_system.md R480; log 17). -/
def execMfcr (rd : BitVec 5) (crn : BitVec 5) (s : State) : Result :=
  whenCrOk s <|
    match s.readCr crn with
    | some v => done .w32 (s.setR rd v)
    | none => raise .ri .w32 s

/-- `mtcr`; the numbers without a register raise RI (45_system.md R481; log 17). -/
def execMtcr (rd : BitVec 5) (crn : BitVec 5) (s : State) : Result :=
  whenCrOk s <|
    match s.writeCr crn (s.r rd) with
    | some t => done .w32 t
    | none => raise .ri .w32 s

/-- `stlb`, a slot of the full-MMU core: RI (45_system.md R495, 30_encoding.md R200; log 17). -/
def execStlb (s : State) : Result := whenCrOk s (raise .ri .w32 s)

/-- `mftlb`, a slot of the full-MMU core: RI (45_system.md R495, 30_encoding.md R200; log 17). -/
def execMftlb (s : State) : Result := whenCrOk s (raise .ri .w32 s)

/-- `mtptlb`, a slot of the full-MMU core: RI (45_system.md R495, 30_encoding.md R200; log 17). -/
def execMtptlb (s : State) : Result := whenCrOk s (raise .ri .w32 s)

/-- `mtrtlb`, a slot of the full-MMU core: RI (45_system.md R495, 30_encoding.md R200; log 17). -/
def execMtrtlb (s : State) : Result := whenCrOk s (raise .ri .w32 s)

end Sys2Proof.Machine
end

