-- ==== Sys2Proof/Machine/Dispatch.lean ====
section
/-! DEFINITION. The meaning of every instruction: one arm per constructor of `Instr`, each a call of its definition. -/
namespace Sys2Proof.Machine

def exec (i : Instr) (s : State) : Host.Outcome State Fault Refusal :=
  match i with
  | .add rd ra rb cu => Sys2Proof.Machine.execAdd rd ra rb cu s
  | .addc rd ra rb cu => Sys2Proof.Machine.execAddc rd ra rb cu s
  | .sub rd ra rb cu => Sys2Proof.Machine.execSub rd ra rb cu s
  | .subc rd ra rb cu => Sys2Proof.Machine.execSubc rd ra rb cu s
  | .neg rd rb cu => Sys2Proof.Machine.execNeg rd rb cu s
  | .cmp tc ra rb => Sys2Proof.Machine.execCmp tc ra rb s
  | .cmpz tc ra => Sys2Proof.Machine.execCmpz tc ra s
  | .and rd ra rb cu => Sys2Proof.Machine.execAnd rd ra rb cu s
  | .or rd ra rb cu => Sys2Proof.Machine.execOr rd ra rb cu s
  | .xor rd ra rb cu => Sys2Proof.Machine.execXor rd ra rb cu s
  | .not rd ra cu => Sys2Proof.Machine.execNot rd ra cu s
  | .bitclr rd ra bn => Sys2Proof.Machine.execBitclr rd ra bn s
  | .bitset rd ra bn => Sys2Proof.Machine.execBitset rd ra bn s
  | .bittgl rd ra bn => Sys2Proof.Machine.execBittgl rd ra bn s
  | .bittst ra bn => Sys2Proof.Machine.execBittst ra bn s
  | .nop => Sys2Proof.Machine.execNop s
  | .sll rd ra rb cu => Sys2Proof.Machine.execSll rd ra rb cu s
  | .slli rd ra sa cu => Sys2Proof.Machine.execSlli rd ra sa cu s
  | .srl rd ra rb cu => Sys2Proof.Machine.execSrl rd ra rb cu s
  | .srli rd ra sa cu => Sys2Proof.Machine.execSrli rd ra sa cu s
  | .sra rd ra rb cu => Sys2Proof.Machine.execSra rd ra rb cu s
  | .srai rd ra sa cu => Sys2Proof.Machine.execSrai rd ra sa cu s
  | .rol rd ra rb cu => Sys2Proof.Machine.execRol rd ra rb cu s
  | .roli rd ra sa cu => Sys2Proof.Machine.execRoli rd ra sa cu s
  | .ror rd ra rb cu => Sys2Proof.Machine.execRor rd ra rb cu s
  | .rori rd ra sa cu => Sys2Proof.Machine.execRori rd ra sa cu s
  | .rolc rd ra rb => Sys2Proof.Machine.execRolc rd ra rb s
  | .rolic rd ra sa => Sys2Proof.Machine.execRolic rd ra sa s
  | .rorc rd ra rb => Sys2Proof.Machine.execRorc rd ra rb s
  | .roric rd ra sa => Sys2Proof.Machine.execRoric rd ra sa s
  | .extsb rd ra cu => Sys2Proof.Machine.execExtsb rd ra cu s
  | .extsh rd ra cu => Sys2Proof.Machine.execExtsh rd ra cu s
  | .extzb rd ra cu => Sys2Proof.Machine.execExtzb rd ra cu s
  | .extzh rd ra cu => Sys2Proof.Machine.execExtzh rd ra cu s
  | .mvcond rd ra ec => Sys2Proof.Machine.execMvcond rd ra ec s
  | .mfsr rd srn => Sys2Proof.Machine.execMfsr rd srn s
  | .mtsr ra srn => Sys2Proof.Machine.execMtsr ra srn s
  | .tcond ec => Sys2Proof.Machine.execTcond ec s
  | .brcond ra bc => Sys2Proof.Machine.execBrcond ra bc s
  | .brcondl ra bc => Sys2Proof.Machine.execBrcondl ra bc s
  | .lcb ra => Sys2Proof.Machine.execLcb ra s
  | .lcw rd ra => Sys2Proof.Machine.execLcw rd ra s
  | .lce rd ra => Sys2Proof.Machine.execLce rd ra s
  | .scb rd ra => Sys2Proof.Machine.execScb rd ra s
  | .scw rd ra => Sys2Proof.Machine.execScw rd ra s
  | .sce ra => Sys2Proof.Machine.execSce ra s
  | .alw rd ra => Sys2Proof.Machine.execAlw rd ra s
  | .asw rd ra => Sys2Proof.Machine.execAsw rd ra s
  | .mul ra rb => Sys2Proof.Machine.execMul ra rb s
  | .mulu ra rb => Sys2Proof.Machine.execMulu ra rb s
  | .div ra rb => Sys2Proof.Machine.execDiv ra rb s
  | .divu ra rb => Sys2Proof.Machine.execDivu ra rb s
  | .mfcel rd => Sys2Proof.Machine.execMfcel rd s
  | .mfceh rd => Sys2Proof.Machine.execMfceh rd s
  | .mfcehl rd ra => Sys2Proof.Machine.execMfcehl rd ra s
  | .mtcel rd => Sys2Proof.Machine.execMtcel rd s
  | .mtceh rd => Sys2Proof.Machine.execMtceh rd s
  | .mtcehl rd ra => Sys2Proof.Machine.execMtcehl rd ra s
  | .syscall spar => Sys2Proof.Machine.execSyscall spar s
  | .trapcond swp ec => Sys2Proof.Machine.execTrapcond swp ec s
  | .sdbbp code => Sys2Proof.Machine.execSdbbp code s
  | .pflush => Sys2Proof.Machine.execPflush s
  | .addi rd imm cu => Sys2Proof.Machine.execAddi rd imm cu s
  | .addis rd imm cu => Sys2Proof.Machine.execAddis rd imm cu s
  | .cmpi rd imm => Sys2Proof.Machine.execCmpi rd imm s
  | .andi rd imm cu => Sys2Proof.Machine.execAndi rd imm cu s
  | .andis rd imm cu => Sys2Proof.Machine.execAndis rd imm cu s
  | .ori rd imm cu => Sys2Proof.Machine.execOri rd imm cu s
  | .oris rd imm cu => Sys2Proof.Machine.execOris rd imm cu s
  | .ldi rd imm => Sys2Proof.Machine.execLdi rd imm s
  | .ldis rd imm => Sys2Proof.Machine.execLdis rd imm s
  | .addri rd ra imm cu => Sys2Proof.Machine.execAddri rd ra imm cu s
  | .andri rd ra imm cu => Sys2Proof.Machine.execAndri rd ra imm cu s
  | .orri rd ra imm cu => Sys2Proof.Machine.execOrri rd ra imm cu s
  | .j disp => Sys2Proof.Machine.execJ disp s
  | .jl disp => Sys2Proof.Machine.execJl disp s
  | .bcond bc disp => Sys2Proof.Machine.execBcond bc disp s
  | .bcondl bc disp => Sys2Proof.Machine.execBcondl bc disp s
  | .lw rd ra imm => Sys2Proof.Machine.execLw rd ra imm s
  | .lwPre rd ra imm => Sys2Proof.Machine.execLwPre rd ra imm s
  | .lwPost rd ra imm => Sys2Proof.Machine.execLwPost rd ra imm s
  | .lh rd ra imm => Sys2Proof.Machine.execLh rd ra imm s
  | .lhPre rd ra imm => Sys2Proof.Machine.execLhPre rd ra imm s
  | .lhPost rd ra imm => Sys2Proof.Machine.execLhPost rd ra imm s
  | .lhu rd ra imm => Sys2Proof.Machine.execLhu rd ra imm s
  | .lhuPre rd ra imm => Sys2Proof.Machine.execLhuPre rd ra imm s
  | .lhuPost rd ra imm => Sys2Proof.Machine.execLhuPost rd ra imm s
  | .lb rd ra imm => Sys2Proof.Machine.execLb rd ra imm s
  | .lbPre rd ra imm => Sys2Proof.Machine.execLbPre rd ra imm s
  | .lbPost rd ra imm => Sys2Proof.Machine.execLbPost rd ra imm s
  | .lbu rd ra imm => Sys2Proof.Machine.execLbu rd ra imm s
  | .lbuPre rd ra imm => Sys2Proof.Machine.execLbuPre rd ra imm s
  | .lbuPost rd ra imm => Sys2Proof.Machine.execLbuPost rd ra imm s
  | .sw rd ra imm => Sys2Proof.Machine.execSw rd ra imm s
  | .swPre rd ra imm => Sys2Proof.Machine.execSwPre rd ra imm s
  | .swPost rd ra imm => Sys2Proof.Machine.execSwPost rd ra imm s
  | .sh rd ra imm => Sys2Proof.Machine.execSh rd ra imm s
  | .shPre rd ra imm => Sys2Proof.Machine.execShPre rd ra imm s
  | .shPost rd ra imm => Sys2Proof.Machine.execShPost rd ra imm s
  | .sb rd ra imm => Sys2Proof.Machine.execSb rd ra imm s
  | .sbPre rd ra imm => Sys2Proof.Machine.execSbPre rd ra imm s
  | .sbPost rd ra imm => Sys2Proof.Machine.execSbPost rd ra imm s
  | .cache op ra imm => Sys2Proof.Machine.execCache op ra imm s
  | .ceinst usd1 ra rb usd2 func5 => Sys2Proof.Machine.execCeinst usd1 ra rb usd2 func5 s
  | .mtcr rd crn => Sys2Proof.Machine.execMtcr rd crn s
  | .mfcr rd crn => Sys2Proof.Machine.execMfcr rd crn s
  | .rte => Sys2Proof.Machine.execRte s
  | .drte => Sys2Proof.Machine.execDrte s
  | .sleep => Sys2Proof.Machine.execSleep s
  | .stlb => Sys2Proof.Machine.execStlb s
  | .mftlb => Sys2Proof.Machine.execMftlb s
  | .mtptlb => Sys2Proof.Machine.execMtptlb s
  | .mtrtlb => Sys2Proof.Machine.execMtrtlb s
  | .mtc1 rd cra => Sys2Proof.Machine.execMtc1 rd cra s
  | .mfc1 rd cra => Sys2Proof.Machine.execMfc1 rd cra s
  | .mtcc1 rd cra => Sys2Proof.Machine.execMtcc1 rd cra s
  | .mfcc1 rd cra => Sys2Proof.Machine.execMfcc1 rd cra s
  | .ldc1 rd cra imm => Sys2Proof.Machine.execLdc1 rd cra imm s
  | .stc1 rd cra imm => Sys2Proof.Machine.execStc1 rd cra imm s
  | .cop1 crd cra crb code => Sys2Proof.Machine.execCop1 crd cra crb code s
  | .mtc2 rd cra => Sys2Proof.Machine.execMtc2 rd cra s
  | .mfc2 rd cra => Sys2Proof.Machine.execMfc2 rd cra s
  | .mtcc2 rd cra => Sys2Proof.Machine.execMtcc2 rd cra s
  | .mfcc2 rd cra => Sys2Proof.Machine.execMfcc2 rd cra s
  | .ldc2 rd cra imm => Sys2Proof.Machine.execLdc2 rd cra imm s
  | .stc2 rd cra imm => Sys2Proof.Machine.execStc2 rd cra imm s
  | .cop2 crd cra crb code => Sys2Proof.Machine.execCop2 crd cra crb code s
  | .mtc3 rd cra => Sys2Proof.Machine.execMtc3 rd cra s
  | .mfc3 rd cra => Sys2Proof.Machine.execMfc3 rd cra s
  | .mtcc3 rd cra => Sys2Proof.Machine.execMtcc3 rd cra s
  | .mfcc3 rd cra => Sys2Proof.Machine.execMfcc3 rd cra s
  | .ldc3 rd cra imm => Sys2Proof.Machine.execLdc3 rd cra imm s
  | .stc3 rd cra imm => Sys2Proof.Machine.execStc3 rd cra imm s
  | .cop3 crd cra crb code => Sys2Proof.Machine.execCop3 crd cra crb code s
  | .add16 rd ra => Sys2Proof.Machine.execAdd16 rd ra s
  | .addc16 rd ra => Sys2Proof.Machine.execAddc16 rd ra s
  | .sub16 rd ra => Sys2Proof.Machine.execSub16 rd ra s
  | .cmp16 rd ra => Sys2Proof.Machine.execCmp16 rd ra s
  | .neg16 rd ra => Sys2Proof.Machine.execNeg16 rd ra s
  | .mv16 rd ra => Sys2Proof.Machine.execMv16 rd ra s
  | .and16 rd ra => Sys2Proof.Machine.execAnd16 rd ra s
  | .or16 rd ra => Sys2Proof.Machine.execOr16 rd ra s
  | .xor16 rd ra => Sys2Proof.Machine.execXor16 rd ra s
  | .not16 rd ra => Sys2Proof.Machine.execNot16 rd ra s
  | .sll16 rd ra => Sys2Proof.Machine.execSll16 rd ra s
  | .srl16 rd ra => Sys2Proof.Machine.execSrl16 rd ra s
  | .sra16 rd ra => Sys2Proof.Machine.execSra16 rd ra s
  | .lw16 rd ra => Sys2Proof.Machine.execLw16 rd ra s
  | .lh16 rd ra => Sys2Proof.Machine.execLh16 rd ra s
  | .lbu16 rd ra => Sys2Proof.Machine.execLbu16 rd ra s
  | .sw16 rd ra => Sys2Proof.Machine.execSw16 rd ra s
  | .sh16 rd ra => Sys2Proof.Machine.execSh16 rd ra s
  | .sb16 rd ra => Sys2Proof.Machine.execSb16 rd ra s
  | .mhfl16 rd ra => Sys2Proof.Machine.execMhfl16 rd ra s
  | .mlfh16 rd ra => Sys2Proof.Machine.execMlfh16 rd ra s
  | .nop16 => Sys2Proof.Machine.execNop16 s
  | .tcond16 ec => Sys2Proof.Machine.execTcond16 ec s
  | .brcond16 bc ra => Sys2Proof.Machine.execBrcond16 bc ra s
  | .brcondl16 bc ra => Sys2Proof.Machine.execBrcondl16 bc ra s
  | .push16 rd ra => Sys2Proof.Machine.execPush16 rd ra s
  | .pop16 rd ra => Sys2Proof.Machine.execPop16 rd ra s
  | .addei16 rd exp => Sys2Proof.Machine.execAddei16 rd exp s
  | .subei16 rd exp => Sys2Proof.Machine.execSubei16 rd exp s
  | .bitclr16 rd bn => Sys2Proof.Machine.execBitclr16 rd bn s
  | .bitset16 rd bn => Sys2Proof.Machine.execBitset16 rd bn s
  | .bittgl16 rd bn => Sys2Proof.Machine.execBittgl16 rd bn s
  | .bittst16 rd bn => Sys2Proof.Machine.execBittst16 rd bn s
  | .slli16 rd sa => Sys2Proof.Machine.execSlli16 rd sa s
  | .srli16 rd sa => Sys2Proof.Machine.execSrli16 rd sa s
  | .lwp16 rd imm => Sys2Proof.Machine.execLwp16 rd imm s
  | .lhp16 rd imm => Sys2Proof.Machine.execLhp16 rd imm s
  | .lbup16 rd imm => Sys2Proof.Machine.execLbup16 rd imm s
  | .swp16 rd imm => Sys2Proof.Machine.execSwp16 rd imm s
  | .shp16 rd imm => Sys2Proof.Machine.execShp16 rd imm s
  | .sbp16 rd imm => Sys2Proof.Machine.execSbp16 rd imm s
  | .sdbbp16 code => Sys2Proof.Machine.execSdbbp16 code s
  | .ldiu16 rd imm => Sys2Proof.Machine.execLdiu16 rd imm s
  | .j16 disp => Sys2Proof.Machine.execJ16 disp s
  | .jl16 disp => Sys2Proof.Machine.execJl16 disp s
  | .bcond16 bc disp => Sys2Proof.Machine.execBcond16 bc disp s

end Sys2Proof.Machine
end

