-- ==== Sys2Proof/Machine/Fetch.lean ====
section
/-!
DEFINITION. What a step does around an instruction (60_exceptions.md R633): the events of an instruction boundary, the
fetch with its checks and the selection of an instruction in its word (30_encoding.md R147), and what follows the
instruction. Step.lean puts these in order.
-/
namespace Sys2Proof.Machine

/-! ## The bytes of an instruction -/

/-- The byte a fetch sees: with `ICACHE_COHERENT` what a load sees, else the I-cache's where it holds one, else memory's, which
a buffered store has not reached (20_memory.md R112, R117, R118, R120). -/
def State.fetchByte (s : State) (a : Word) : Byte :=
  if s.cfg.icacheCoherent then s.readByte a
  else if s.cacheable a then
    match s.icache.byte? s.iGeometry a.toNat with
    | some v => v
    | none => s.mem.get a.toNat
  else s.mem.get a.toNat

/-- The word of four bytes at rising addresses as a fetch reads them (20_memory.md R87): in little endian either the data
word or, with `LE_FETCH_HALFWORD_SWAP`, two little-endian halfwords, the higher half first. -/
def fetchOrder (be swap : Bool) (b0 b1 b2 b3 : Byte) : Word :=
  if be then b0 ++ b1 ++ b2 ++ b3 else if swap then b1 ++ b0 ++ b3 ++ b2 else b3 ++ b2 ++ b1 ++ b0

/-- A data word as a fetch reads it: with `LE_FETCH_HALFWORD_SWAP` in little endian its halves change places
(20_memory.md R87). -/
def fetchSwapped (be swap : Bool) (w : Word) : Word :=
  if !be && swap then w.extractLsb' 0 16 ++ w.extractLsb' 16 16 else w

/-- The instruction word at a word address (20_memory.md R87): in debug mode a register of the breakpoint unit where there is
one (60_exceptions.md R694, R704), else the bytes there. -/
def State.fetchWord (s : State) (a : Word) : Word :=
  if s.drsegAt a then fetchSwapped s.cfg.bigEndian s.cfg.leFetchSwap (s.drsegWord a)
  else
    fetchOrder s.cfg.bigEndian s.cfg.leFetchSwap (s.fetchByte a) (s.fetchByte (a + 1#32)) (s.fetchByte (a + 2#32))
      (s.fetchByte (a + 3#32))

/-- A fetch of a cacheable address fills a line of the I-cache (20_memory.md R120); its lines are never dirty, and the refill
never fails (log 56). -/
def State.fillI (s : State) (a : Word) : State :=
  if !s.cfg.icacheCoherent && s.cacheable a then
    { s with icache := (s.icache.readFill s.mem s.iGeometry a.toNat).1 }
  else s

/-! ## Fetch -/

/-- What a fetch in the debug segment stops with. A fetch reads a whole word (20_memory.md R92), so it stops where a load of
that word would: drseg answers it where it has a register (60_exceptions.md R694, R703, R704; log 20). -/
def State.fetchStop (s : State) (a : Word) : Option Fault := s.debugSegmentStop (wordAddr a) 4

/-- The checks of a fetch at `pc` before its word is read: odd address, address range, bus error (20_memory.md R90, R95). -/
def State.checkFetch (s : State) : Check :=
  if s.pc.getLsbD 0 || s.forbidden s.pc then .exc (.adelInstr s.pc)
  else if s.busError .fetch s.pc then .exc .buselInstr
  else
    match s.fetchStop s.pc with
    | some f => .stop f
    | none => .ok

/-- What a word holds for a fetch at `pc` (30_encoding.md R147). -/
inductive Selected where
  /-- an instruction, the address it executes at, and whether it stands in a PCE word -/
  | run (c : Code) (pc : Word) (pce : Bool)
  /-- the lower half of a PCE word entered with T = 1: no instruction executes -/
  | skip
  /-- P-EL -/
  | parity
  deriving DecidableEq, Repr

/-- The P-bit checks and the choice of the half (30_encoding.md R146, R147). -/
def selectCode (w pc : Word) (t : Bool) : Selected :=
  let low := pc.getLsbD 1
  match wordFormat w with
  | .undefined => .parity
  | .single i => if low then .parity else .run (.w32 i) pc false
  | .pair hi lo => .run (.w16 (if low then lo else hi)) pc false
  | .pce hi lo =>
    if low then (if t then .skip else .run (.w16 lo) pc true)
    else if t then .run (.w16 hi) pc true
    else .run (.w16 lo) (pc + 2#32) true

/-- The instruction word of the word that holds `pc`. -/
def State.pcWord (s : State) : Word := s.fetchWord (wordAddr s.pc)

/-- The selection at `pc`. -/
def State.selected (s : State) : Selected := selectCode s.pcWord s.pc s.flags.t

/-- The state in which a selected instruction executes. -/
def State.enterCode (s : State) (pc : Word) (pce : Bool) : State := { s.fillI s.pc with pc := pc, pce := pce }

/-- What a fetch answers. -/
inductive Fetched where
  | run (c : Code) (t : State)
  | skip (t : State)
  | exc (x : Exc)
  | stop (f : Fault)
  deriving DecidableEq, Repr

/-- Fetch at `pc` (30_encoding.md R147). DESIGN CHOICE (log 59): a fetch that ends in P-EL leaves the I-cache as it was, while
one that ends in RI keeps the line it has filled; the spec is silent on the line in both cases. -/
def State.fetch (s : State) : Fetched :=
  match s.checkFetch with
  | .exc x => .exc x
  | .stop f => .stop f
  | .dbg _ => .stop .drsegAccess
  | .ok =>
    match s.selected with
    | .parity => .exc (.pel s.pc)
    | .skip => .skip { s.fillI s.pc with pc := wordAddr s.pc + 4#32 }
    | .run c pc pce => .run c (s.enterCode pc pce)

/-! ## The boundary before an instruction -/

/-- The address an instruction breakpoint compares: the address of the instruction that the fetch selects, for a PCE word that
of the half that T selects (60_exceptions.md R709), and `pc` where the fetch selects none. DESIGN CHOICE (log 58): so a PCE
word entered at its lower half with T = 1, where no instruction executes, compares `pc`, the word's address + 2. -/
def State.breakPc (s : State) : Word :=
  match s.checkFetch with
  | .ok =>
    match s.selected with
    | .run _ pc _ => pc
    | _ => s.pc
  | _ => s.pc

/-- An enabled instruction breakpoint matches (60_exceptions.md R687, R709). -/
def State.dibHit (s : State) : Bool := s.ibrk.any fun b => b.hits s.cfg.curAsid s.breakPc

/-- An NMI edge is remembered (60_exceptions.md R671); the step starts with no exception taken. -/
def State.beginStep (s : State) : State :=
  { s with nmiPending := s.nmiPending || s.pins.nmi, raised := false, pce := false }

/-- A hardware interrupt is accepted (60_exceptions.md R672). -/
def State.interruptAccepted (s : State) : Bool :=
  s.psr.iec && decide ((s.psr.im.extractLsb' 2 6).toNat < s.pins.irq.toNat)

/-- The wake test of a sleeping core (45_system.md R476). -/
def State.wakes (s : State) : Bool := !s.dreg.dm && (s.pins.dint || s.nmiPending || s.interruptAccepted)

/-- What is taken at an instruction boundary (60_exceptions.md R633 steps 1 to 6). -/
inductive Event where
  | dbg (y : DebugExc)
  | nmi
  | interrupt (level : BitVec 6)
  deriving DecidableEq, Repr

/-- The event of highest rank at this boundary, outside debug mode (60_exceptions.md R633). -/
def State.event (s : State) : Option Event :=
  if s.dreg.dm then none
  else if s.dreg.ssEn && s.stepped then some (.dbg .dss)
  else if s.pins.dint then some (.dbg .dint)
  else if s.ddblvPending then some (.dbg .ddblv)
  else if s.nmiPending then some .nmi
  else if s.interruptAccepted then some (.interrupt s.pins.irq)
  else if s.dibHit then some (.dbg .dib)
  else none

/-- Take it. The saved M bit is free for each of these, so the width is without effect. -/
def takeEvent (e : Event) (s : State) : State :=
  match e with
  | .dbg y => debugEnter y .w32 s
  | .nmi => enterNormal .nmi .w32 { s with nmiPending := false }
  | .interrupt n => enterNormal (.interrupt n) .w32 s

/-! ## After the instruction -/

/-- A software interrupt is requested, unmasked and enabled (60_exceptions.md R674). -/
def State.swiAccepted (s : State) : Bool :=
  s.psr.iec && ((s.ecr.softIp.getLsbD 0 && !s.psr.im.getLsbD 0) || (s.ecr.softIp.getLsbD 1 && !s.psr.im.getLsbD 1))

/-- The inputs of this step are used up (60_exceptions.md R670). -/
def State.nextInputs (s : State) : State := { s with inputs := s.inputs.tail }

/-- The end of a step that began in `s`: buffered stores that leave by themselves (log 60), `stepped` (60_exceptions.md R685),
the next inputs, and the model's own fields. -/
def State.endStep (s t : State) : State :=
  { t.drainSome with
    stepped := !s.dreg.dm && s.dreg.ssEn && !t.dreg.dm
    inputs := t.inputs.tail
    raised := false
    pce := false }

/-- Steps 10 and 11 of 60_exceptions.md R633, for an instruction of width `w` that ran from `s` to `t`: a pending bus error
or a software interrupt discards its results, if it took no exception of its own. -/
def afterInstr (w : Width) (s t : State) : State :=
  if t.raised || s.dreg.dm then t
  else if s.busErrPending then enterNormal .buselData w { s with busErrPending := false }
  else if s.swiAccepted then enterNormal .swi w s
  else t

/-- The end of a step whose instruction, of width `w`, began in `s` with the outcome `r`. -/
def commit (w : Width) (s : State) (r : Result) : Result :=
  match r with
  | .next t => .next (s.endStep (afterInstr w s t))
  | .fault f => .fault f
  | .refused q => .refused q

/-! ## Placing an instruction -/

/-- Put a byte where loads and fetches see it: memory, a line of the D-cache that holds it, no line of the I-cache. -/
def State.placeByte (s : State) (a : Word) (v : Byte) : State :=
  { s with
    mem := s.mem.set a.toNat v
    dcache := { s.dcache with
      lines := mapLine (fun l => l.setByte (a.toNat % s.dGeometry.lineBytes) v false) s.dcache.lines
        (s.dGeometry.base a.toNat) }
    icache := s.icache.invalidate s.iGeometry a.toNat }

/-- The bytes at rising addresses that a fetch reads as a word (20_memory.md R87). -/
def fetchBytes (be swap : Bool) (w : Word) : List Byte :=
  let b3 := w.extractLsb' 24 8
  let b2 := w.extractLsb' 16 8
  let b1 := w.extractLsb' 8 8
  let b0 := w.extractLsb' 0 8
  if be then [b3, b2, b1, b0] else if swap then [b2, b3, b0, b1] else [b0, b1, b2, b3]

/-- Put bytes at rising addresses. -/
def State.placeBytes (s : State) : Word → List Byte → State
  | _, [] => s
  | a, v :: vs => (s.placeByte a v).placeBytes (a + 1#32) vs

/-- Put an instruction word where a fetch at `pc` reads it; no buffered store may change it afterwards. -/
def State.placeWord (s : State) (w : Word) : State :=
  s.drainAll.placeBytes (wordAddr s.pc) (fetchBytes s.cfg.bigEndian s.cfg.leFetchSwap w)

/-- The word that holds an instruction of the opcode table: a 16-bit one at `pc`'s half, `nop!` in the other. -/
def tableWord (pc : Word) (nbits w : Nat) : Word :=
  if nbits = 16 then
    if pc.getLsbD 1 then (wordOf (.w16 (BitVec.ofNat 15 w))) >>> 16 else wordOf (.w16 (BitVec.ofNat 15 w))
  else wordOf (.w32 (BitVec.ofNat 30 w))

end Sys2Proof.Machine
end

