-- ==== Sys2Proof/Machine/Step.lean ====
section
/-! DEFINITION. One step of the machine (60_exceptions.md R633), and placing an instruction for the next fetch. -/
namespace Sys2Proof.Machine

/-- Decode and execute a fetched instruction: an encoding that the decoder rejects raises RI (30_encoding.md R190, log 17). -/
def runCode (c : Code) (t : State) : Result :=
  match decode c with
  | .ok i => exec i t
  | .error _ => raise .ri c.width t

/-- What follows a fetch in the step that began in `s` (60_exceptions.md R633 steps 7 to 12). -/
def runFetched (s : State) : Fetched → Result
  | .run c t => commit c.width s (runCode c t)
  | .skip t => commit .w16 s (.next t)
  | .exc x => commit .w32 s (raise x .w32 s)
  | .stop f => .fault f

/-- A step without the reset input: the wake test, the events of the boundary, then the instruction (60_exceptions.md R633). -/
def runStep (s : State) : Result :=
  if s.sleeping && !s.wakes then .next s.nextInputs
  else
    match s.event with
    | some e => .next (s.endStep (takeEvent e s))
    | none => runFetched s s.fetch

/-- One step (60_exceptions.md R633). -/
def step (s : State) : Host.Outcome State Fault Refusal :=
  if s.pins.reset then .next (resetInput s).nextInputs else runStep s.beginStep

/-- The machine with an instruction of the opcode table where the next step fetches (log 26). -/
def State.withFetchWord (s : State) (nbits w : Nat) : State := s.placeWord (tableWord s.pc nbits w)

end Sys2Proof.Machine
end

