-- ==== Sys2Proof/Safety.lean ====
section
/-!
DEFINITION. The terms that statements about the machine use: the invariant every step keeps, what an instruction leaves
unchanged (its frame), when an access is allowed, and the flag rules of the spec written over integers and bits.
-/
namespace Sys2Proof.Machine

/-! ## The invariant -/

/-- Every listed address is one of the 2^32 addresses (20_memory.md R80). -/
def Memory.inRange (m : Memory) : Bool := m.all fun c => decide (c.1 < 2 ^ 32)

/-- A line of the D-cache is an aligned line of sixteen bytes of cacheable memory, and equals memory, with the buffered stores
in it, unless it is dirty (20_memory.md R110, R120, R121). -/
def State.lineOk (s : State) (l : CacheLine) : Bool :=
  decide (l.base % 16 = 0) && decide (l.base + 16 ≤ 2 ^ 32) && decide (l.data.length = 16) &&
    s.cacheable (BitVec.ofNat 32 l.base) && (l.dirty || l.data == s.dataMem.getAll l.base 16)

/-- No two lines hold one address. -/
def distinctLines : List CacheLine → Bool
  | [] => true
  | l :: ls => ls.all (fun k => decide (k.base ≠ l.base)) && distinctLines ls

/-- The write buffer holds four words at most, of four bytes at most, and nothing when it is disabled (20_memory.md R110,
R112, R120). -/
def State.bufferOk (s : State) : Bool :=
  decide (s.wbuf.length ≤ bufferWords) && s.wbuf.all (fun e => decide (e.cells.length ≤ 4)) &&
    (s.ccr.wb || s.wbuf.isEmpty)

/-- The invariant: memory has its canonical form and holds addresses only; the D-cache holds every address once and agrees
with memory where it is clean; no line of the I-cache is dirty; the write buffer holds what it can hold (20_memory.md R80,
R112, R120, R121). -/
def State.Wf (s : State) : Bool :=
  s.mem.wf && s.mem.inRange && s.dcache.lines.all s.lineOk && distinctLines s.dcache.lines &&
    s.icache.lines.all (fun l => !l.dirty) && s.bufferOk

/-! ## Frames -/

/-- Every general register but the listed ones is unchanged. -/
def SameRegs (except : List (BitVec 5)) (s t : State) : Prop := ∀ i, i ∉ except → t.r i = s.r i

/-- Every byte a load can see is unchanged. -/
def SameMem (s t : State) : Prop := ∀ a, t.readByte a = s.readByte a

/-- Every byte a load can see is unchanged but the `n` bytes from `a`. -/
def SameMemBut (a : Word) (n : Nat) (s t : State) : Prop :=
  ∀ b, (∀ k, k < n → b ≠ a + BitVec.ofNat 32 k) → t.readByte b = s.readByte b

/-- No store has entered or left the write buffer: it and the memory behind it are unchanged. -/
def SameBuffer (s t : State) : Prop := t.wbuf = s.wbuf ∧ t.mem = s.mem

/-- What a fill of the D-cache does to the write buffer: nothing, unless a dirty line has to go. DESIGN CHOICE (log 22): then
every buffered store has reached memory before that line, on which 20_memory.md R112 is silent. -/
def FillBuffer (s t : State) : Prop :=
  (SameBuffer s t ∧ ∀ l ∈ s.dcache.lines, l.dirty = true → l ∈ t.dcache.lines) ∨
    (t.wbuf = [] ∧ ∃ l ∈ s.dcache.lines, l.dirty = true ∧ l ∉ t.dcache.lines)

/-- What a load does to the write buffer: with CCR.RdBpDis set every buffered store has reached memory (20_memory.md R110,
R113). DESIGN CHOICE (log 22): whatever the load's address. -/
def LoadBuffer (s t : State) : Prop :=
  if s.ccr.rdBpDis then t.wbuf = [] ∧ FillBuffer s.drainAll t else FillBuffer s t

/-- The bytes of a store of `n` bytes at `a` that go to memory: not those that a line in write-back mode takes. -/
def State.memoryAddrs (s : State) (a : Word) (n : Nat) : List Word :=
  ((List.range n).map fun k => a + BitVec.ofNat 32 k).filter fun b => !s.writesBack b

/-- Where a store's bytes go: with CCR.WB = 0 they have reached memory, with every earlier store; with CCR.WB = 1 they are the
youngest word of the buffer (20_memory.md R110, R112). DESIGN CHOICE (log 22): a store is a word of its own, never merged, and
a full buffer gives up its oldest for it. -/
def StoreBuffer (a : Word) (n : Nat) (s t : State) : Prop :=
  (s.ccr.wb = false → t.wbuf = [] ∧
    ∀ b : Word, t.mem.get b.toNat = if b ∈ s.memoryAddrs a n then t.readByte b else s.dataMem.get b.toNat) ∧
  (s.ccr.wb = true → s.memoryAddrs a n = [] → SameBuffer s t) ∧
  (s.ccr.wb = true → s.memoryAddrs a n ≠ [] →
    let e : BufferedStore := ⟨(s.memoryAddrs a n).map fun b => (b, t.readByte b)⟩
    (s.wbuf.length < 4 → t.mem = s.mem ∧ t.wbuf = s.wbuf ++ [e]) ∧
    ∀ d ds, s.wbuf = d :: ds → ds.length = 3 → t.mem = s.mem.putCells d.cells ∧ t.wbuf = ds ++ [e])

/-- The saved and the backup flags are unchanged. -/
def SameSaved (s t : State) : Prop := t.cond.sav = s.cond.sav ∧ t.cond.bak = s.cond.bak

/-- All flags, current and stacked, are unchanged. -/
def SameFlags (s t : State) : Prop := t.cond = s.cond

/-- CEH and CEL are unchanged. -/
def SameCe (s t : State) : Prop := t.ceh = s.ceh ∧ t.cel = s.cel

/-- CNT, LCR and SCR are unchanged. -/
def SameSpecial (s t : State) : Prop := t.cnt = s.cnt ∧ t.lcr = s.lcr ∧ t.scr = s.scr

/-- The control registers other than Condition and the debug registers are unchanged. -/
def SameControl (s t : State) : Prop :=
  t.psr = s.psr ∧ t.ecr = s.ecr ∧ t.excpVec = s.excpVec ∧ t.ccr = s.ccr ∧ t.epc = s.epc ∧ t.ema = s.ema ∧
    t.limpfn = s.limpfn ∧ t.ldmpfn = s.ldmpfn

/-- DREG, DEPC, DSAVE and the breakpoint unit are unchanged. -/
def SameDebug (s t : State) : Prop :=
  t.dreg = s.dreg ∧ t.depc = s.depc ∧ t.dsave = s.dsave ∧ t.ibrk = s.ibrk ∧ t.dbrk = s.dbrk

/-- The coprocessors are unchanged. -/
def SameCops (s t : State) : Prop := t.cop1 = s.cop1 ∧ t.cop2 = s.cop2 ∧ t.cop3 = s.cop3

/-- The hidden bits other than ATbit and `ddblv_pending`, the I-cache, the inputs and the configuration are unchanged, and no
exception has been taken. -/
def SameHidden (s t : State) : Prop :=
  t.sleeping = s.sleeping ∧ t.stepped = s.stepped ∧ t.nmiPending = s.nmiPending ∧
    t.busErrPending = s.busErrPending ∧ t.inputs = s.inputs ∧ t.cfg = s.cfg ∧ t.raised = s.raised ∧ t.pce = s.pce ∧
    t.icache = s.icache

/-- Everything outside the flags, the general registers, memory, the special registers and CEH and CEL is unchanged. -/
def SameSystem (s t : State) : Prop :=
  SameControl s t ∧ SameDebug s t ∧ SameCops s t ∧ SameHidden s t ∧ t.atbit = s.atbit ∧
    t.ddblvPending = s.ddblvPending

/-- The frame of an instruction that computes: the listed registers, the current flags and the pc may change. -/
def ComputeFrame (except : List (BitVec 5)) (w : Width) (s t : State) : Prop :=
  t.pc = s.npc w ∧ SameRegs except s t ∧ SameSaved s t ∧ SameMem s t ∧ SameCe s t ∧ SameSpecial s t ∧ SameSystem s t ∧
    SameBuffer s t

/-- The frame of a load: the listed registers, the pc, and `ddblv_pending` may change; memory as a load sees it stays, by the
invariant. -/
def LoadFrame (except : List (BitVec 5)) (w : Width) (s t : State) : Prop :=
  t.pc = s.npc w ∧ SameRegs except s t ∧ SameFlags s t ∧ (s.Wf = true → SameMem s t) ∧ SameCe s t ∧
    SameControl s t ∧ SameDebug s t ∧ SameHidden s t ∧ LoadBuffer s t

/-- The frame of a store of `n` bytes at `a`: the listed registers, the pc and those bytes may change. -/
def StoreFrame (except : List (BitVec 5)) (w : Width) (a : Word) (n : Nat) (s t : State) : Prop :=
  t.pc = s.npc w ∧ SameRegs except s t ∧ SameFlags s t ∧ SameMemBut a n s t ∧ SameCe s t ∧ SameSystem s t ∧
    StoreBuffer a n s t

/-- The frame of a load that writes no special register, no coprocessor and not ATbit. -/
def PlainLoad (except : List (BitVec 5)) (w : Width) (s t : State) : Prop :=
  LoadFrame except w s t ∧ SameSpecial s t ∧ SameCops s t ∧ t.atbit = s.atbit

/-- The frame of a store that writes no special register. -/
def PlainStore (except : List (BitVec 5)) (w : Width) (a : Word) (n : Nat) (s t : State) : Prop :=
  StoreFrame except w a n s t ∧ SameSpecial s t

/-- An instruction answers a next state of which `P` holds. -/
def Completes (r : Result) (P : State → Prop) : Prop := ∃ t, r = .next t ∧ P t

/-! ## Flag rules (40_arith_logic.md R222, R223, R262; 41_shift_ext_move.md R281, R290, R300) -/

/-- The flags after an addition, by the formulas of R222. -/
def FlagsAdd (f g : Flags) (a b : Word) (cin : Bool) (res : Word) : Prop :=
  g.t = f.t ∧ g.n = res.msb ∧ g.z = decide (res = 0#32) ∧
    g.c = (a.setWidth 33 + b.setWidth 33 + (BitVec.ofBool cin).setWidth 33).msb ∧
    g.v = (a.msb == b.msb && res.msb != a.msb)

/-- The flags after a subtraction, by the formulas of R222. -/
def FlagsSub (f g : Flags) (a b : Word) (bin : Bool) (res : Word) : Prop :=
  g.t = f.t ∧ g.n = res.msb ∧ g.z = decide (res = 0#32) ∧
    g.c = (a.setWidth 33 + (~~~b).setWidth 33 + (BitVec.ofBool (!bin)).setWidth 33).msb ∧
    g.v = (a.msb != b.msb && res.msb != a.msb)

/-- The flags after a logical instruction. -/
def FlagsLogic (f g : Flags) (res : Word) : Prop :=
  g.t = f.t ∧ g.n = res.msb ∧ g.z = decide (res = 0#32) ∧ g.c = f.c ∧ g.v = f.v

/-- The flags after a shift by `n`: C is the last bit shifted out, and open when nothing is. -/
def FlagsShift (f g : Flags) (res : Word) (n : Nat) (out : Bool) : Prop :=
  g.t = f.t ∧ g.n = res.msb ∧ g.z = decide (res = 0#32) ∧ (n ≠ 0 → g.c = out) ∧ g.v = f.v

/-- The flags after a rotate by `n`: C is the last bit rotated, and stays when nothing is. -/
def FlagsRotate (f g : Flags) (res : Word) (n : Nat) (out : Bool) : Prop :=
  g.t = f.t ∧ g.n = res.msb ∧ g.z = f.z ∧ g.c = (if n = 0 then f.c else out) ∧ g.v = f.v

/-- The flags after a bit operation on a register whose tested bit was `b`: the PG's rule, or the TRM's as configured. -/
def FlagsBit (cfg : Config) (f g : Flags) (res : Word) (b : Bool) : Prop :=
  g.t = f.t ∧ g.n = res.msb ∧ g.v = f.v ∧
    (cfg.bitopFlagsTrm = false → g.z = !b ∧ g.c = f.c) ∧
    (cfg.bitopFlagsTrm = true → g.z = decide (res = 0#32) ∧ g.c = b)

/-! ## Results with their flags -/

/-- An addition into `rd`, with or without flags. -/
def Adds (rd : BitVec 5) (w : Width) (a b : Word) (cin cu : Bool) (s t : State) : Prop :=
  ComputeFrame [rd] w s t ∧ t.r rd = a + b + (BitVec.ofBool cin).setWidth 32 ∧
    (cu = true → FlagsAdd s.flags t.flags a b cin (t.r rd)) ∧ (cu = false → SameFlags s t)

/-- A subtraction into `rd`, with or without flags. -/
def Subtracts (rd : BitVec 5) (w : Width) (a b : Word) (bin cu : Bool) (s t : State) : Prop :=
  ComputeFrame [rd] w s t ∧ t.r rd = a - b - (BitVec.ofBool bin).setWidth 32 ∧
    (cu = true → FlagsSub s.flags t.flags a b bin (t.r rd)) ∧ (cu = false → SameFlags s t)

/-- A logical result in `rd`, with or without flags. -/
def LogicalTo (rd : BitVec 5) (w : Width) (res : Word) (cu : Bool) (s t : State) : Prop :=
  ComputeFrame [rd] w s t ∧ t.r rd = res ∧ (cu = true → FlagsLogic s.flags t.flags res) ∧ (cu = false → SameFlags s t)

/-- A value in `rd`, no flag. -/
def MovesTo (rd : BitVec 5) (w : Width) (v : Word) (s t : State) : Prop :=
  ComputeFrame [rd] w s t ∧ t.r rd = v ∧ SameFlags s t

/-- A bit operation's result in `rd`; `b` is the tested bit. -/
def BitTo (rd : BitVec 5) (w : Width) (res : Word) (b : Bool) (s t : State) : Prop :=
  ComputeFrame [rd] w s t ∧ t.r rd = res ∧ FlagsBit s.cfg s.flags t.flags res b

/-- A shift by `n` into `rd`; `out` is the last bit shifted out. -/
def ShiftTo (rd : BitVec 5) (w : Width) (res : Word) (n : Nat) (out cu : Bool) (s t : State) : Prop :=
  ComputeFrame [rd] w s t ∧ t.r rd = res ∧ (cu = true → FlagsShift s.flags t.flags res n out) ∧
    (cu = false → SameFlags s t)

/-- A rotate by `n` into `rd`; `out` is the last bit rotated. -/
def RotateTo (rd : BitVec 5) (w : Width) (res : Word) (n : Nat) (out cu : Bool) (s t : State) : Prop :=
  ComputeFrame [rd] w s t ∧ t.r rd = res ∧ (cu = true → FlagsRotate s.flags t.flags res n out) ∧
    (cu = false → SameFlags s t)

/-- An extension's result in `rd`: N is its only flag (41_shift_ext_move.md R300). -/
def ExtendTo (rd : BitVec 5) (w : Width) (res : Word) (cu : Bool) (s t : State) : Prop :=
  ComputeFrame [rd] w s t ∧ t.r rd = res ∧
    (cu = true → t.flags = { s.flags with n := res.msb }) ∧ (cu = false → SameFlags s t)

/-! ## Memory values (20_memory.md R84) -/

/-- The word at an address. -/
def State.word (s : State) (a : Word) : Word :=
  if s.cfg.bigEndian then
    s.readByte a ++ s.readByte (a + 1#32) ++ s.readByte (a + 2#32) ++ s.readByte (a + 3#32)
  else s.readByte (a + 3#32) ++ s.readByte (a + 2#32) ++ s.readByte (a + 1#32) ++ s.readByte a

/-- The halfword at an address. -/
def State.half (s : State) (a : Word) : BitVec 16 :=
  if s.cfg.bigEndian then s.readByte a ++ s.readByte (a + 1#32) else s.readByte (a + 1#32) ++ s.readByte a

/-! ## Allowed accesses (20_memory.md R95) -/

/-- A load passes every check, and is not one of the breakpoint unit's registers. -/
def LoadReady (s : State) (x : Acc) : Prop :=
  s.loadBreak x = none ∧ s.addrError .load x.addr x.bytes = none ∧ s.busError .load x.addr = false ∧
    s.debugSegmentStop x.addr x.bytes = none ∧ inDrseg x.addr = false

/-- A store passes every check, and is not to one of the breakpoint unit's registers. -/
def StoreReady (s : State) (x : Acc) (v : Word) : Prop :=
  s.storeBreak x v = none ∧ s.addrError .store x.addr x.bytes = none ∧ s.busError .store x.addr = false ∧
    s.debugSegmentStop x.addr x.bytes = none ∧ inDrseg x.addr = false

/-- A coprocessor is usable, present, and reports nothing (44_ce_cop.md R442). -/
def CopReady (s : State) (z : CopNum) : Prop :=
  copBit z s.psr.cu = true ∧ copBit z s.cfg.copPresent = true ∧ copBit z s.pins.copReport = false

/-! ## More frames -/

/-- What every jump and branch leaves alone: all but the pc, CNT and the listed registers. -/
def JumpFrame (except : List (BitVec 5)) (s t : State) : Prop :=
  SameRegs except s t ∧ SameFlags s t ∧ SameMem s t ∧ SameCe s t ∧ t.lcr = s.lcr ∧ t.scr = s.scr ∧ SameSystem s t ∧
    SameBuffer s t

/-- The frame of an instruction that writes special registers only. -/
def SpecialFrame (w : Width) (s t : State) : Prop :=
  t.pc = s.npc w ∧ SameRegs [] s t ∧ SameFlags s t ∧ SameMem s t ∧ SameCe s t ∧ SameSystem s t ∧ SameBuffer s t

/-- The frame of an instruction that writes the listed registers, CEH and CEL. -/
def CeFrame (except : List (BitVec 5)) (w : Width) (s t : State) : Prop :=
  t.pc = s.npc w ∧ SameRegs except s t ∧ SameFlags s t ∧ SameMem s t ∧ SameSpecial s t ∧ SameSystem s t ∧
    SameBuffer s t

/-- The frame of an instruction that writes registers of coprocessor `z` only. -/
def CopFrame (z : CopNum) (w : Width) (s t : State) : Prop :=
  t.pc = s.npc w ∧ SameRegs [] s t ∧ SameFlags s t ∧ SameMem s t ∧ SameCe s t ∧ SameSpecial s t ∧ SameControl s t ∧
    SameDebug s t ∧ SameHidden s t ∧ t.atbit = s.atbit ∧ t.ddblvPending = s.ddblvPending ∧ SameBuffer s t ∧
    ∀ y, y ≠ z → t.cop y = s.cop y

/-- What taking any exception leaves alone (60_exceptions.md R650, R680, R682). -/
def ExceptionFrame (s t : State) : Prop :=
  SameRegs [] s t ∧ SameMem s t ∧ SameCe s t ∧ SameSpecial s t ∧ SameCops s t ∧ t.excpVec = s.excpVec ∧ t.ccr = s.ccr ∧
    t.limpfn = s.limpfn ∧ t.ldmpfn = s.ldmpfn ∧ t.dsave = s.dsave ∧ t.ibrk = s.ibrk ∧ t.dbrk = s.dbrk ∧
    t.atbit = s.atbit ∧ t.nmiPending = s.nmiPending ∧ t.busErrPending = s.busErrPending ∧ t.cfg = s.cfg ∧
    t.inputs = s.inputs ∧ t.icache = s.icache ∧ SameBuffer s t

/-! ## Compares, branches -/

/-- T after a compare whose difference is `res` (30_encoding.md R172). -/
def testResult (tc : TestCond) (old : Bool) (res : Word) : Bool :=
  match tc with
  | .teq => decide (res = 0#32)
  | .tmi => res.msb
  | .reserved => old
  | .none => old

/-- A compare of two words: the flags of their difference, T by its field, nothing else. -/
def Compares (w : Width) (a b : Word) (tc : TestCond) (s t : State) : Prop :=
  ComputeFrame [] w s t ∧ FlagsSub s.flags { t.flags with t := s.flags.t } a b false (a - b) ∧
    t.flags.t = testResult tc s.flags.t (a - b)

/-- The table of 30_encoding.md R170, by code number. -/
def condTable (k : Nat) (f : Flags) (cnt : Word) : Bool :=
  match k with
  | 0 => f.c
  | 1 => !f.c
  | 2 => f.c && !f.z
  | 3 => !f.c || f.z
  | 4 => f.z
  | 5 => !f.z
  | 6 => !f.z && decide (f.n = f.v)
  | 7 => f.z || decide (f.n ≠ f.v)
  | 8 => decide (f.n = f.v)
  | 9 => decide (f.n ≠ f.v)
  | 10 => f.n
  | 11 => !f.n
  | 12 => f.v
  | 13 => !f.v
  | 14 => decide (cnt ≠ 0#32)
  | _ => true

/-- A conditional branch with or without a link (42_branch_jump.md R331, R332). -/
def Branches (w : Width) (c : Cond) (link : Bool) (target : Word) (s t : State) : Prop :=
  (s.condHolds c = true → t.pc = target) ∧ (s.condHolds c = false → t.pc = s.npc w) ∧
    t.cnt = (if c = .cnz ∧ s.cnt ≠ 0#32 then s.cnt - 1#32 else s.cnt) ∧
    (link = true → s.condHolds c = true ∨ s.cfg.blLinkUncond = true → t.r 3#5 = s.pc + w.bytes) ∧
    (link = true → s.condHolds c = false → s.cfg.blLinkUncond = false → t.r 3#5 = s.r 3#5) ∧
    JumpFrame (if link then [3#5] else []) s t

/-! ## Loads and stores -/

/-- A load of `n` bytes at `a` that is allowed leaves `v` in `rd`. -/
def LoadsTo (rd : BitVec 5) (w : Width) (s : State) (a : Word) (n : Nat) (v : Word) (i : Instr) : Prop :=
  LoadReady s (.at a n) → Completes (exec i s) fun t => t.r rd = v ∧ PlainLoad [rd] w s t

/-- An indexed load that is allowed leaves `v` in `rd` and `base` in `ra`, if these are two registers; else the register's
value is open (43_load_store.md R363, log 13). -/
def LoadsIndexed (rd ra : BitVec 5) (w : Width) (s : State) (a : Word) (n : Nat) (v base : Word) (i : Instr) : Prop :=
  LoadReady s (.at a n) →
    Completes (exec i s) fun t => (rd ≠ ra → t.r rd = v ∧ t.r ra = base) ∧ PlainLoad [rd, ra] w s t

/-- The low `n` bytes of `v` stand at `a`, for a halfword, a word or a byte. -/
def Holds (t : State) (a : Word) (n : Nat) (v : Word) : Prop :=
  (n = 1 → t.readByte a = v.setWidth 8) ∧ (n = 2 → t.half a = v.setWidth 16) ∧ (n = 4 → t.word a = v)

/-- A store of the low `n` bytes of `v` at `a` that is allowed. -/
def StoresAt (w : Width) (s : State) (a : Word) (n : Nat) (v : Word) (i : Instr) : Prop :=
  StoreReady s (.at a n) v → s.mem.wf = true →
    Completes (exec i s) fun t => Holds t a n v ∧ PlainStore [] w a n s t

/-- An indexed store that is allowed, with the new base. -/
def StoresIndexed (ra : BitVec 5) (w : Width) (s : State) (a : Word) (n : Nat) (v base : Word) (i : Instr) : Prop :=
  StoreReady s (.at a n) v → s.mem.wf = true →
    Completes (exec i s) fun t => Holds t a n v ∧ t.r ra = base ∧ PlainStore [ra] w a n s t

/-- The data access an instruction makes. -/
structure DataAccess where
  kind : Access
  acc : Acc
  /-- what a store stores -/
  value : Word
  /-- the coprocessor whose instruction it is -/
  cop : Option CopNum
  deriving DecidableEq, Repr

/-- A load's access. -/
def DataAccess.ofLoad (a : Word) (n : Nat) : DataAccess := ⟨.load, .at a n, 0#32, none⟩

/-- A store's access. -/
def DataAccess.ofStore (a : Word) (n : Nat) (v : Word) : DataAccess := ⟨.store, .at a n, v, none⟩

/-- The access of every load and store; `lce` and `sce` with byte = 0 and `asw` with ATbit = 0 make none. -/
def State.dataAccess (s : State) : Instr → Option DataAccess
  | .lw _ ra imm => some (.ofLoad (s.offsetAddr ra imm) 4)
  | .lh _ ra imm => some (.ofLoad (s.offsetAddr ra imm) 2)
  | .lhu _ ra imm => some (.ofLoad (s.offsetAddr ra imm) 2)
  | .lb _ ra imm => some (.ofLoad (s.offsetAddr ra imm) 1)
  | .lbu _ ra imm => some (.ofLoad (s.offsetAddr ra imm) 1)
  | .lwPre _ ra imm => some (.ofLoad (s.indexedBase ra imm) 4)
  | .lhPre _ ra imm => some (.ofLoad (s.indexedBase ra imm) 2)
  | .lhuPre _ ra imm => some (.ofLoad (s.indexedBase ra imm) 2)
  | .lbPre _ ra imm => some (.ofLoad (s.indexedBase ra imm) 1)
  | .lbuPre _ ra imm => some (.ofLoad (s.indexedBase ra imm) 1)
  | .lwPost _ ra _ => some (.ofLoad (s.r ra) 4)
  | .lhPost _ ra _ => some (.ofLoad (s.r ra) 2)
  | .lhuPost _ ra _ => some (.ofLoad (s.r ra) 2)
  | .lbPost _ ra _ => some (.ofLoad (s.r ra) 1)
  | .lbuPost _ ra _ => some (.ofLoad (s.r ra) 1)
  | .sw rd ra imm => some (.ofStore (s.offsetAddr ra imm) 4 (s.r rd))
  | .sh rd ra imm => some (.ofStore (s.offsetAddr ra imm) 2 (s.r rd))
  | .sb rd ra imm => some (.ofStore (s.offsetAddr ra imm) 1 (s.r rd))
  | .swPre rd ra imm => some (.ofStore (s.indexedBase ra imm) 4 (s.r rd))
  | .shPre rd ra imm => some (.ofStore (s.indexedBase ra imm) 2 (s.r rd))
  | .sbPre rd ra imm => some (.ofStore (s.indexedBase ra imm) 1 (s.r rd))
  | .swPost rd ra _ => some (.ofStore (s.r ra) 4 (s.r rd))
  | .shPost rd ra _ => some (.ofStore (s.r ra) 2 (s.r rd))
  | .sbPost rd ra _ => some (.ofStore (s.r ra) 1 (s.r rd))
  | .lcb ra => some (.ofLoad (s.combineWord ra) 4)
  | .lcw _ ra => some (.ofLoad (s.combineWord ra) 4)
  | .lce _ ra => if s.combineOf ra = 0 then none else some (.ofLoad (s.combineWord ra) 4)
  | .scb rd ra => some ⟨.store, s.scbAccess ra, s.r rd >>> (8 * s.combineOf ra), none⟩
  | .scw rd ra => some (.ofStore (s.combineWord ra) 4 (combineStore (s.combineOf ra) s.scr (s.r rd)))
  | .sce ra =>
    if s.combineOf ra = 0 then none
    else some ⟨.store, s.sceAccess ra, s.scr >>> (32 - 8 * s.combineOf ra), none⟩
  | .alw _ ra => some (.ofLoad (s.r ra) 4)
  | .asw rd ra => if s.atbit then some (.ofStore (s.r ra) 4 (s.r rd)) else none
  | .ldc1 rd _ imm => some ⟨.load, .at (s.copAddr rd imm) 4, 0#32, some .cp1⟩
  | .ldc2 rd _ imm => some ⟨.load, .at (s.copAddr rd imm) 4, 0#32, some .cp2⟩
  | .ldc3 rd _ imm => some ⟨.load, .at (s.copAddr rd imm) 4, 0#32, some .cp3⟩
  | .stc1 rd cra imm => some ⟨.store, .at (s.copAddr rd imm) 4, s.copData .cp1 cra, some .cp1⟩
  | .stc2 rd cra imm => some ⟨.store, .at (s.copAddr rd imm) 4, s.copData .cp2 cra, some .cp2⟩
  | .stc3 rd cra imm => some ⟨.store, .at (s.copAddr rd imm) 4, s.copData .cp3 cra, some .cp3⟩
  | .lw16 _ ra => some (.ofLoad (s.r (g0 ra)) 4)
  | .lh16 _ ra => some (.ofLoad (s.r (g0 ra)) 2)
  | .lbu16 _ ra => some (.ofLoad (s.r (g0 ra)) 1)
  | .lwp16 _ imm => some (.ofLoad (s.bpAddr imm 2) 4)
  | .lhp16 _ imm => some (.ofLoad (s.bpAddr imm 1) 2)
  | .lbup16 _ imm => some (.ofLoad (s.bpAddr imm 0) 1)
  | .pop16 _ ra => some (.ofLoad (s.r (gBase ra)) 4)
  | .sw16 rd ra => some (.ofStore (s.r (g0 ra)) 4 (s.r (g0 rd)))
  | .sh16 rd ra => some (.ofStore (s.r (g0 ra)) 2 (s.r (g0 rd)))
  | .sb16 rd ra => some (.ofStore (s.r (g0 ra)) 1 (s.r (g0 rd)))
  | .swp16 rd imm => some (.ofStore (s.bpAddr imm 2) 4 (s.r (g0 rd)))
  | .shp16 rd imm => some (.ofStore (s.bpAddr imm 1) 2 (s.r (g0 rd)))
  | .sbp16 rd imm => some (.ofStore (s.bpAddr imm 0) 1 (s.r (g0 rd)))
  | .push16 rd ra => some (.ofStore (s.pushAddr ra) 4 (s.r rd))
  | _ => none

/-- The registers a store writes besides memory, with their values: the new base, or the 1 of `asw` (43_load_store.md R363,
R395 to R399, 46_16bit.md R560). -/
def State.storeRegs (s : State) : Instr → List (BitVec 5 × Word)
  | .swPre _ ra imm => [(ra, s.indexedBase ra imm)]
  | .shPre _ ra imm => [(ra, s.indexedBase ra imm)]
  | .sbPre _ ra imm => [(ra, s.indexedBase ra imm)]
  | .swPost _ ra imm => [(ra, s.indexedBase ra imm)]
  | .shPost _ ra imm => [(ra, s.indexedBase ra imm)]
  | .sbPost _ ra imm => [(ra, s.indexedBase ra imm)]
  | .scb _ ra => [(ra, s.r ra + 4#32)]
  | .scw _ ra => [(ra, s.r ra + 4#32)]
  | .sce ra => [(ra, s.r ra + 4#32)]
  | .asw rd _ => [(rd, 1#32)]
  | .push16 _ ra => [(gBase ra, s.r (gBase ra) - 4#32)]
  | _ => []

/-- SCR after a store: `scb` and `scw` rotate their source into it (43_load_store.md R395, R396). -/
def State.storeScr (s : State) : Instr → Word
  | .scb rd ra => (s.r rd).rotateRight (8 * s.combineOf ra)
  | .scw rd ra => (s.r rd).rotateRight (8 * s.combineOf ra)
  | _ => s.scr

/-- The registers a word load writes, with their values when it has loaded `v`: the destination and the new base
(43_load_store.md R364 to R366, R390 to R393, R398, 46_16bit.md R550, R561, R562). -/
def State.loadRegs (s : State) (v : Word) : Instr → List (BitVec 5 × Word)
  | .lw rd _ _ => [(rd, v)]
  | .lwPre rd ra imm => [(rd, v), (ra, s.indexedBase ra imm)]
  | .lwPost rd ra imm => [(rd, v), (ra, s.indexedBase ra imm)]
  | .lcb ra => [(ra, s.r ra + 4#32)]
  | .lcw rd ra =>
    [(rd, (s.lcr <<< (8 * s.combineOf ra)) ||| (v >>> (32 - 8 * s.combineOf ra))), (ra, s.r ra + 4#32)]
  | .lce rd ra =>
    [(rd, (s.lcr <<< (8 * s.combineOf ra)) ||| (v >>> (32 - 8 * s.combineOf ra))), (ra, s.r ra + 4#32)]
  | .alw rd _ => [(rd, v)]
  | .lw16 rd _ => [(g0 rd, v)]
  | .lwp16 rd _ => [(g0 rd, v)]
  | .pop16 rd ra => [(rd, v), (gBase ra, s.r (gBase ra) + 4#32)]
  | _ => []

/-- LCR after a word load of `v`: `lcb`, `lcw` and `lce` leave the word in it (43_load_store.md R390 to R392). -/
def State.loadLcr (s : State) (v : Word) : Instr → Word
  | .lcb _ => v
  | .lcw _ _ => v
  | .lce _ _ => v
  | _ => s.lcr

/-- The data register of a coprocessor that `ldcz` loads (44_ce_cop.md R447). -/
def copDest : Instr → Option (CopNum × BitVec 5)
  | .ldc1 _ cra _ => some (.cp1, cra)
  | .ldc2 _ cra _ => some (.cp2, cra)
  | .ldc3 _ cra _ => some (.cp3, cra)
  | _ => none

/-- The word load `i` has loaded `v`: its destination, its new base, LCR, ATbit and the coprocessor's register hold what the
instruction gives them, and all else stays. Destination and base in one register leave it open (log 13). -/
def LoadsWord (i : Instr) (v : Word) (s t : State) : Prop :=
  (((s.loadRegs v i).map Prod.fst).Nodup → ∀ p ∈ s.loadRegs v i, t.r p.1 = p.2) ∧
    t.lcr = s.loadLcr v i ∧ t.cnt = s.cnt ∧ t.scr = s.scr ∧
    (t.atbit = true ↔ s.atbit = true ∨ ∃ rd ra, i = .alw rd ra) ∧
    (∀ z k, t.copData z k = if copDest i = some (z, k) then v else s.copData z k) ∧
    (∀ z k, t.copCtrl z k = s.copCtrl z k) ∧
    LoadFrame ((s.loadRegs v i).map Prod.fst) (encode i).width s t

/-- What the word store `i` leaves where `u` is the state with the word stored: the new base, SCR and the 1 of `asw` as the
instruction gives them, and the next pc. -/
def State.storeEnd (s : State) (i : Instr) (u : State) : State :=
  { (s.storeRegs i).foldl (fun t p => t.setR p.1 p.2) u with scr := s.storeScr i, pc := s.npc (encode i).width }

/-- The coprocessor of an access, if it has one, is usable, present and reports nothing. -/
def DataAccess.copReady (d : DataAccess) (s : State) : Prop := ∀ z, d.cop = some z → CopReady s z

/-- No enabled data breakpoint stops the access. -/
def DataAccess.unwatched (d : DataAccess) (s : State) : Prop :=
  (d.kind = .load → s.loadBreak d.acc = none) ∧ (d.kind = .store → s.storeBreak d.acc d.value = none)

/-- `DB_addr_match` (60_exceptions.md R712). -/
def BreakAddr (b : DataBreak) (asid : Byte) (v : BusView) : Prop :=
  (b.asidUse = false ∨ asid = b.asid) ∧ (b.noSz = true ∨ b.sz.toNat + 1 = v.bytes) ∧
    (b.mask ||| ~~~(v.addr ^^^ b.addr)) = 0xFFFFFFFF#32 ∧ (b.bai ||| v.lanes) = 0xF#4

/-- `DB_no_value` (60_exceptions.md R712). -/
def BreakNoValue (b : DataBreak) (v : BusView) : Prop := (b.blm ||| b.bai ||| ~~~v.lanes) = 0xF#4

/-- `DB_value_match` (60_exceptions.md R712). -/
def BreakValue (b : DataBreak) (v : BusView) : Prop :=
  ∀ k, k < 4 → v.data.extractLsb' (8 * k) 8 = b.value.extractLsb' (8 * k) 8 ∨ v.lanes.getLsbD k = false ∨
    b.blm.getLsbD k = true ∨ b.bai.getLsbD k = true

/-- The lanes of the table of 20_memory.md R85 for an access of one, two or four bytes at `a`. -/
def tableLanes (be : Bool) (a : Word) (n : Nat) (lanes : BitVec 4) : Prop :=
  (n = 1 → lanes = 1#4 <<< (if be then 3 - a.toNat % 4 else a.toNat % 4)) ∧
    (n = 2 → lanes = if a.getLsbD 1 = be then 0x3#4 else 0xC#4) ∧ (n = 4 → lanes = 0xF#4)

/-! ## The registers of drseg (60_exceptions.md R704 to R711) -/

/-- The register of drseg at an address reads as `v`. No more than 15 breakpoints of a kind exist (R704). -/
def DrsegHolds (s : State) (a v : Word) : Prop :=
  (a = 0xFFFF0000#32 ∧ v = 0#31 ++ BitVec.ofBool s.cfg.probeEn) ∨
  (a = 0xFFFF1000#32 ∧ v = 0#4 ++ BitVec.ofNat 4 s.ibrk.length ++ 0#24) ∨
  (a = 0xFFFF3000#32 ∧ v = 0#4 ++ BitVec.ofNat 4 s.dbrk.length ++ 0#24) ∨
  (∃ n b, n < 16 ∧ s.ibrk[n]? = some b ∧
    ((a.toNat = 0xFFFF2000 + 0x100 * n ∧ v = b.addr) ∨ (a.toNat = 0xFFFF2004 + 0x100 * n ∧ v = b.mask) ∨
      (a.toNat = 0xFFFF2008 + 0x100 * n ∧ v = b.asid.setWidth 32) ∨
      (a.toNat = 0xFFFF200C + 0x100 * n ∧ v = 0#23 ++ BitVec.ofBool b.asidUse ++ 0#7 ++ BitVec.ofBool b.be))) ∨
  (∃ n b, n < 16 ∧ s.dbrk[n]? = some b ∧
    ((a.toNat = 0xFFFF4000 + 0x100 * n ∧ v = b.addr) ∨ (a.toNat = 0xFFFF4004 + 0x100 * n ∧ v = b.mask) ∨
      (a.toNat = 0xFFFF4008 + 0x100 * n ∧ v = b.asid.setWidth 32) ∨
      (a.toNat = 0xFFFF400C + 0x100 * n ∧
        v = 0#7 ++ BitVec.ofBool b.asidUse ++ 0#4 ++ b.bai ++ b.sz ++ BitVec.ofBool b.noSz ++ 0#1 ++ b.blm ++
          BitVec.ofBool b.noSb ++ BitVec.ofBool b.noLb ++ 0#5 ++ BitVec.ofBool b.be) ∨
      (a.toNat = 0xFFFF4010 + 0x100 * n ∧ v = b.value)))

/-- `t` is `s` after `v` has been stored to the register of drseg at an address: DCR, IBS and DBS keep their values, the
others take the writable fields. -/
def DrsegStored (s : State) (a v : Word) (t : State) : Prop :=
  ((a = 0xFFFF0000#32 ∨ a = 0xFFFF1000#32 ∨ a = 0xFFFF3000#32) ∧ t = s) ∨
  (∃ n f, n < 16 ∧ n < s.ibrk.length ∧ t = { s with ibrk := s.ibrk.modify n f } ∧
    ((a.toNat = 0xFFFF2000 + 0x100 * n ∧ ∀ b, f b = { b with addr := v }) ∨
      (a.toNat = 0xFFFF2004 + 0x100 * n ∧ ∀ b, f b = { b with mask := v }) ∨
      (a.toNat = 0xFFFF2008 + 0x100 * n ∧ ∀ b, f b = { b with asid := v.setWidth 8 }) ∨
      (a.toNat = 0xFFFF200C + 0x100 * n ∧ ∀ b, f b = { b with asidUse := v.getLsbD 8, be := v.getLsbD 0 }))) ∨
  (∃ n f, n < 16 ∧ n < s.dbrk.length ∧ t = { s with dbrk := s.dbrk.modify n f } ∧
    ((a.toNat = 0xFFFF4000 + 0x100 * n ∧ ∀ b, f b = { b with addr := v }) ∨
      (a.toNat = 0xFFFF4004 + 0x100 * n ∧ ∀ b, f b = { b with mask := v }) ∨
      (a.toNat = 0xFFFF4008 + 0x100 * n ∧ ∀ b, f b = { b with asid := v.setWidth 8 }) ∨
      (a.toNat = 0xFFFF400C + 0x100 * n ∧
        ∀ b, f b = { b with
          asidUse := v.getLsbD 24
          bai := v.extractLsb' 16 4
          sz := v.extractLsb' 14 2
          noSz := v.getLsbD 13
          blm := v.extractLsb' 8 4
          noSb := v.getLsbD 7
          noLb := v.getLsbD 6
          be := v.getLsbD 0 }) ∨
      (a.toNat = 0xFFFF4010 + 0x100 * n ∧ ∀ b, f b = { b with value := v })))

/-! ## The operations on the caches (20_memory.md R127, R131) -/

/-- Neither cache, nor the write buffer, nor memory is changed. -/
def SameArrays (s t : State) : Prop := t.icache = s.icache ∧ t.dcache = s.dcache ∧ SameBuffer s t

/-- `b` is in the line of `a`. -/
def SameLine (g : Geometry) (a b : Word) : Prop := b.toNat / g.lineBytes = a.toNat / g.lineBytes

/-- A cache `c` has become `c'`, in which the line of `a` is `l`, read from memory `m` and marked as used last; every line of
another set or of the other way has stayed. -/
def Fills (g : Geometry) (a : Nat) (c c' : Cache) (m : Memory) (l : CacheLine) : Prop :=
  findLine c'.lines (g.base a) = some l ∧ l.dirty = false ∧ l.data = m.getAll (g.base a) g.lineBytes ∧
    (g.set a ∈ c'.mru ↔ l.way1 = false) ∧
    ∀ k ∈ c.lines, k.base ≠ g.base a → (g.set k.base ≠ g.set a ∨ k.way1 ≠ l.way1) → k ∈ c'.lines

/-- Prefetch of a line: a hit fills the way that holds the line and keeps its lock; a miss fills way 1 when the MRU bit is
asserted (way 0 was used last) or way 0 is locked, else way 0. -/
def Prefetches (g : Geometry) (a : Nat) (c c' : Cache) (m : Memory) : Prop :=
  ∃ l, Fills g a c c' m l ∧
    (∀ k, findLine c.lines (g.base a) = some k → l.way1 = k.way1 ∧ l.lock = k.lock) ∧
    (findLine c.lines (g.base a) = none → l.lock = false ∧
      (l.way1 = true ↔ g.set a ∈ c.mru ∨ ∃ k ∈ c.lines, g.set k.base = g.set a ∧ k.way1 = false ∧ k.lock = true))

/-- Prefetch and lock of a line: it is in way 0, locked, and nowhere else. -/
def PrefetchesLocked (g : Geometry) (a : Nat) (c c' : Cache) (m : Memory) : Prop :=
  ∃ l, Fills g a c c' m l ∧ l.way1 = false ∧ l.lock = true ∧ ∀ k ∈ c'.lines, k.base = g.base a → k = l

/-- What an operation at `a` that is not ignored does to the caches, the write buffer and memory, by its number. -/
def CacheEffect (op : Nat) (a : Word) (s t : State) : Prop :=
  let gi := s.iGeometry
  let gd := s.dGeometry
  (op = 0x00 → Prefetches gi a.toNat s.icache t.icache s.mem) ∧
  (op = 0x01 → PrefetchesLocked gi a.toNat s.icache t.icache s.mem) ∧
  (op = 0x02 → (∀ k, k ∈ t.icache.lines ↔ k ∈ s.icache.lines ∧ k.base ≠ gi.base a.toNat) ∧
    (s.cfg.icacheCoherent = false → ∀ b, SameLine gi a b → t.fetchByte b = s.mem.get b.toNat)) ∧
  (op = 0x10 → t.icache = ⟨[], []⟩ ∧ (s.cfg.icacheCoherent = false → ∀ b, t.fetchByte b = s.mem.get b.toNat)) ∧
  (op = 0x08 → Prefetches gd a.toNat s.dcache t.dcache t.dataMem) ∧
  (op = 0x09 → PrefetchesLocked gd a.toNat s.dcache t.dcache t.dataMem) ∧
  (op = 0x08 ∨ op = 0x09 → FillBuffer s t) ∧
  (op = 0x0A → (∀ k, k ∈ t.dcache.lines ↔ k ∈ s.dcache.lines ∧ k.base ≠ gd.base a.toNat) ∧
    ∀ b, SameLine gd a b → t.readByte b = s.dataMem.get b.toNat) ∧
  (op = 0x18 → t.dcache = ⟨[], []⟩ ∧ ∀ b, t.readByte b = s.dataMem.get b.toNat) ∧
  (op = 0x0A ∨ op = 0x18 → SameBuffer s t) ∧
  (op = 0x0D ∨ op = 0x0E →
    (findLine s.dcache.lines (gd.base a.toNat) = none → t.dcache = s.dcache ∧ SameBuffer s t) ∧
    (findLine s.dcache.lines (gd.base a.toNat) ≠ none → t.wbuf = [] ∧
      (∀ b, SameLine gd a b → t.mem.get b.toNat = s.readByte b) ∧
      ∀ b, ¬ SameLine gd a b → t.mem.get b.toNat = s.dataMem.get b.toNat)) ∧
  (op = 0x0D → t.dcache.lines = s.dcache.lines.map (fun k => { k with dirty := k.dirty && k.base != gd.base a.toNat }) ∧
    ∀ l, findLine s.dcache.lines (gd.base a.toNat) = some l → (gd.set a.toNat ∈ t.dcache.mru ↔ l.way1 = false)) ∧
  (op = 0x0E → (∀ k, k ∈ t.dcache.lines ↔ k ∈ s.dcache.lines ∧ k.base ≠ gd.base a.toNat) ∧
    ∀ l, findLine s.dcache.lines (gd.base a.toNat) = some l → (gd.set a.toNat ∈ t.dcache.mru ↔ l.way1 = true)) ∧
  (op = 0x1A → t.wbuf = [] ∧ t.mem = s.dataMem ∧ t.dcache = s.dcache) ∧
  (op = 0x1B → t.dcache = s.dcache ∧ t.icache = s.icache ∧
    if s.ccr.wb then t.wbuf = [] ∧ t.mem = s.dataMem else SameBuffer s t) ∧
  (op = 0x1E ∨ op = 0x1F → t.wbuf = [] ∧ ∀ b, t.mem.get b.toNat = s.readByte b) ∧
  (op = 0x1E → t.dcache = { s.dcache with lines := s.dcache.lines.map fun k => { k with dirty := false } }) ∧
  (op = 0x1F → t.dcache.lines = [] ∧
    ∀ l ∈ s.dcache.lines, (∀ k ∈ s.dcache.lines, gd.set k.base = gd.set l.base → k = l) →
      (gd.set l.base ∈ t.dcache.mru ↔ l.way1 = true)) ∧
  (op ∈ [0x00, 0x01, 0x02, 0x10] → t.dcache = s.dcache ∧ SameBuffer s t) ∧
  (op ∈ [0x08, 0x09, 0x0A, 0x18, 0x0D, 0x0E, 0x1A, 0x1E, 0x1F] → t.icache = s.icache) ∧
  (op ∉ [0x00, 0x01, 0x02, 0x10, 0x08, 0x09, 0x0A, 0x18, 0x0D, 0x0E, 0x1A, 0x1B, 0x1E, 0x1F] → SameArrays s t)

/-! ## The coprocessor instructions by coprocessor -/

/-- `mtcz` -/
def mtcOf (z : CopNum) (rd cra : BitVec 5) : Instr :=
  match z with | .cp1 => .mtc1 rd cra | .cp2 => .mtc2 rd cra | .cp3 => .mtc3 rd cra
/-- `mfcz` -/
def mfcOf (z : CopNum) (rd cra : BitVec 5) : Instr :=
  match z with | .cp1 => .mfc1 rd cra | .cp2 => .mfc2 rd cra | .cp3 => .mfc3 rd cra
/-- `mtccz` -/
def mtccOf (z : CopNum) (rd cra : BitVec 5) : Instr :=
  match z with | .cp1 => .mtcc1 rd cra | .cp2 => .mtcc2 rd cra | .cp3 => .mtcc3 rd cra
/-- `mfccz` -/
def mfccOf (z : CopNum) (rd cra : BitVec 5) : Instr :=
  match z with | .cp1 => .mfcc1 rd cra | .cp2 => .mfcc2 rd cra | .cp3 => .mfcc3 rd cra
/-- `ldcz` -/
def ldcOf (z : CopNum) (rd cra : BitVec 5) (imm : BitVec 10) : Instr :=
  match z with | .cp1 => .ldc1 rd cra imm | .cp2 => .ldc2 rd cra imm | .cp3 => .ldc3 rd cra imm
/-- `stcz` -/
def stcOf (z : CopNum) (rd cra : BitVec 5) (imm : BitVec 10) : Instr :=
  match z with | .cp1 => .stc1 rd cra imm | .cp2 => .stc2 rd cra imm | .cp3 => .stc3 rd cra imm
/-- `copz` -/
def copOf (z : CopNum) (crd cra crb code : BitVec 5) : Instr :=
  match z with | .cp1 => .cop1 crd cra crb code | .cp2 => .cop2 crd cra crb code | .cp3 => .cop3 crd cra crb code

/-- The coprocessor instructions of coprocessor `z` (60_exceptions.md R640). -/
def CopInstr (z : CopNum) (i : Instr) : Prop :=
  (∃ rd cra, i = mtcOf z rd cra ∨ i = mfcOf z rd cra ∨ i = mtccOf z rd cra ∨ i = mfccOf z rd cra) ∨
    (∃ rd cra imm, i = ldcOf z rd cra imm ∨ i = stcOf z rd cra imm) ∨
    ∃ crd cra crb code, i = copOf z crd cra crb code

/-- The TLB slots (30_encoding.md R200). -/
def TlbSlot (i : Instr) : Prop := i = .stlb ∨ i = .mftlb ∨ i = .mtptlb ∨ i = .mtrtlb

/-- The control-register instructions (60_exceptions.md R640). -/
def CrInstr (i : Instr) : Prop :=
  (∃ rd crn, i = .mfcr rd crn ∨ i = .mtcr rd crn) ∨ i = .rte ∨ i = .drte ∨ i = .sleep ∨ TlbSlot i

/-! ## Whole steps -/

/-- The instruction a word holds when it is entered at its start with T = 1. -/
def wordInstr (w : Word) : Option Instr :=
  match firstCode w with
  | none => none
  | some c =>
    match decode c with
    | .ok i => some i
    | .error _ => none

/-- The core is awake, or this step's inputs wake it, and reset is not asserted. -/
def Awake (s : State) : Prop := s.pins.reset = false ∧ (s.sleeping = false ∨ s.beginStep.wakes = true)

/-- The step comes to the fetch of an instruction: nothing is taken at the boundary. -/
def Fetches (s : State) : Prop := s.pins.reset = false ∧ s.sleeping = false ∧ s.beginStep.event = none

/-- A software interrupt is requested, unmasked and enabled (60_exceptions.md R674). -/
def SwiRequested (s : State) : Prop :=
  s.psr.iec = true ∧ ∃ k, k < 2 ∧ s.ecr.softIp.getLsbD k = true ∧ s.psr.im.getLsbD k = false

/-- An enabled instruction breakpoint matches an address (60_exceptions.md R709). -/
def InstrBreakAt (s : State) (pc : Word) : Prop :=
  ∃ b ∈ s.ibrk, b.be = true ∧ (b.asidUse = false ∨ s.cfg.curAsid = b.asid) ∧
    (b.mask ||| ~~~(pc ^^^ b.addr)) = 0xFFFFFFFF#32

/-- The values that 10_state.md R60 and 70_reset_and_hazards.md R720 give for the state after reset; what they leave undefined
is not named. -/
def ResetState (t : State) : Prop :=
  t.pc = 0x9F000000#32 ∧ t.psr = ⟨0#3, false, 0#8, false, false, false, false, false, false⟩ ∧
    t.cond = ⟨Flags.zero, Flags.zero, Flags.zero⟩ ∧ t.ecr = ⟨0#2, 0#2, 0#5⟩ ∧ t.excpVec = ⟨0x9F00#16, false⟩ ∧
    t.ccr = ⟨false, false, false, false, false, false, false, false, false⟩ ∧ t.epc = ⟨0#31, false⟩ ∧ t.ema = 0#32 ∧
    t.dreg.iceDis = false ∧ t.dreg.initOk = false ∧ t.dreg.dm = false ∧ t.dreg.ssEn = false ∧
    (∀ b ∈ t.ibrk, b.be = false) ∧ (∀ b ∈ t.dbrk, b.sz = 3#2 ∧ b.noSz = true ∧ b.be = false) ∧ t.atbit = false ∧
    t.sleeping = false ∧ t.stepped = false ∧ t.ddblvPending = false ∧ t.nmiPending = false ∧ t.busErrPending = false ∧
    t.wbuf = []

end Sys2Proof.Machine
end

