-- ==== Sys2Proof/Certificates/Slice0/Obligations.lean ====
section
/-!
DEFINITION. The statements for the provers, one `def Obligations.<Name> : Prop` each; OBLIGATIONS.json lists them in this
order. Each docstring says what the statement claims and which rules of spec/ it rests on.
-/
section
open Sys2Proof Sys2Proof.Machine

/-- For every instruction with every operand value, the decoder reads the words the encoder writes as that instruction:
no operand bit of a format of R155 to R164 and no cell of the opcode maps R180 to R187 is dropped or shared. (rests
on 30_encoding.md R155 to R166; 30_encoding.md R180 to R187; 30_encoding.md R210) -/
def Obligations.DecodeEncode : Prop :=
  ∀ i : Instr, decode (encode i) = .ok i

/-- Example words of the instruction rules, P-bits included, decode to the instructions the examples name: at least one
of every family. That the word 98828000 is mtcr rests on the encoding bit that tells mtcr from mfcr, which is
general knowledge in the spec (decision D13; log 36, PRESUMED). (rests on 40_arith_logic.md R275;
41_shift_ext_move.md R325; 43_load_store.md R364; 44_ce_cop.md R440; 45_system.md R481; 46_16bit.md R575) -/
def Obligations.DecodeSpecWords : Prop :=
  wordInstr 0x80838810#32 = some (.add 4 3 2 false) ∧ wordInstr 0x80628C19#32 = some (.cmp .none 2 3) ∧
  wordInstr 0x849AD79A#32 = some (.ldi 4 0xABCD) ∧ wordInstr 0x8082A829#32 = some (.bitclr 4 2 10) ∧
  wordInstr 0x80828C30#32 = some (.sll 4 2 3 false) ∧ wordInstr 0x8082943F#32 = some (.rolc 4 2 5) ∧
  wordInstr 0x80828058#32 = some (.extsb 4 2 false) ∧ wordInstr 0x80829056#32 = some (.mvcond 4 2 .eq) ∧
  wordInstr 0x80808850#32 = some (.mfsr 4 2) ∧ wordInstr 0x88009001#32 = some (.jl 0x800) ∧
  wordInstr 0x80039009#32 = some (.brcondl 3 .eq) ∧ wordInstr 0x8C828918#32 = some (.lwPre 4 2 0x123) ∧
  wordInstr 0xD0828123#32 = some (.sw 4 2 0x123) ∧ wordInstr 0x80828066#32 = some (.lce 4 2) ∧
  wordInstr 0x80028C44#32 = some (.div 2 3) ∧ wordInstr 0xF0229040#32 = some (.ceinst 1 2 4 2 0) ∧
  wordInstr 0x9888825A#32 = some (.ldc3 4 8 0x12) ∧ wordInstr 0x8004B802#32 = some (.syscall 0x8E) ∧
  wordInstr 0x98828000#32 = some (.mtcr 4 2) ∧ wordInstr 0xE0028123#32 = some (.cache 0 2 0x123) ∧
  wordInstr 0x24200000#32 = some (.add16 4 2) ∧ wordInstr 0x20AE0000#32 = some (.push16 16 2) ∧
  wordInstr 0x77700000#32 = some (.lwp16 7 14) ∧ wordInstr 0x44040000#32 = some (.bcond16 .eq 4)

/-- For the word W at an even pc: P-bits 10 give P-EL; 11 gives the 32-bit instruction, or P-EL at the lower half; 00
gives the half that pc names; 01 gives the higher half for T = 1 and the lower half, at pc + 2, for T = 0, and at
the lower half no instruction for T = 1. Entering a PCE word at its lower half follows the spec's decision D8.
(rests on 30_encoding.md R141; 30_encoding.md R143; 30_encoding.md R147) -/
def Obligations.FetchSelection : Prop :=
  ∀ (w pc : Word) (t : Bool),
    (w.getLsbD 31 = true → w.getLsbD 15 = false → selectCode w pc t = .parity) ∧
    (w.getLsbD 31 = true → w.getLsbD 15 = true → pc.getLsbD 1 = true → selectCode w pc t = .parity) ∧
    (w.getLsbD 31 = true → w.getLsbD 15 = true → pc.getLsbD 1 = false →
      selectCode w pc t = .run (.w32 (w.extractLsb' 16 15 ++ w.extractLsb' 0 15)) pc false) ∧
    (w.getLsbD 31 = false → w.getLsbD 15 = false → pc.getLsbD 1 = false →
      selectCode w pc t = .run (.w16 (w.extractLsb' 16 15)) pc false) ∧
    (w.getLsbD 31 = false → w.getLsbD 15 = false → pc.getLsbD 1 = true →
      selectCode w pc t = .run (.w16 (w.extractLsb' 0 15)) pc false) ∧
    (w.getLsbD 31 = false → w.getLsbD 15 = true → pc.getLsbD 1 = false → t = true →
      selectCode w pc t = .run (.w16 (w.extractLsb' 16 15)) pc true) ∧
    (w.getLsbD 31 = false → w.getLsbD 15 = true → pc.getLsbD 1 = false → t = false →
      selectCode w pc t = .run (.w16 (w.extractLsb' 0 15)) (pc + 2#32) true) ∧
    (w.getLsbD 31 = false → w.getLsbD 15 = true → pc.getLsbD 1 = true → t = false →
      selectCode w pc t = .run (.w16 (w.extractLsb' 0 15)) pc true) ∧
    (w.getLsbD 31 = false → w.getLsbD 15 = true → pc.getLsbD 1 = true → t = true → selectCode w pc t = .skip)

/-- Where the word at pc selects a code that decodes to i, the step runs exec i on the state u that is the state before
with the I-cache after the fetch (State.fillI), a remembered NMI edge, the instruction's address and its PCE mark. A
fault or refusal of exec is the step's; a next state t is the step's, with stepped, the inputs and the model's marks
updated and a free number of buffered stores gone to memory (log 60), unless t took no exception, the core was not
in debug mode, and a bus error is pending or a software interrupt requested: then the results are dropped and that
exception is taken. The word's format gives the next sequential address. The successor of a PCE word is the spec's
decision D8 (log 15); that the taken exception saves the step's own pc, also at a PCE word, is log 16, that the
I-cache fill is dropped with the results log 40, and the pending bus error the spec's decision D34 (log 39). (rests
on 60_exceptions.md R633; 30_encoding.md R147; 30_encoding.md R150; 30_encoding.md R210; 20_memory.md R112) -/
def Obligations.StepRunsDecoded : Prop :=
  ∀ (s : State) (c : Code) (pc : Word) (pce : Bool) (i : Instr),
    Fetches s → s.checkFetch = .ok → selectCode s.pcWord s.pc s.flags.t = .run c pc pce → decode c = .ok i →
    ∀ u : State, u = { s.beginStep.fillI s.pc with pc := pc, pce := pce } →
      (∀ f, exec i u = .fault f → step s = .fault f) ∧
      (∀ q, exec i u = .refused q → step s = .refused q) ∧
      (∀ t, exec i u = .next t → (t.raised = true ∨ s.dreg.dm = true) → step s = .next (s.beginStep.endStep t)) ∧
      (∀ t, exec i u = .next t → t.raised = false → s.dreg.dm = false → s.busErrPending = true →
        step s = .next (s.beginStep.endStep
          (takeException .buselData c.width { s.beginStep with busErrPending := false }))) ∧
      (∀ t, exec i u = .next t → t.raised = false → s.dreg.dm = false → s.busErrPending = false → SwiRequested s →
        step s = .next (s.beginStep.endStep (takeException .swi c.width s.beginStep))) ∧
      (∀ t, exec i u = .next t → t.raised = false → s.dreg.dm = false → s.busErrPending = false → ¬ SwiRequested s →
        step s = .next (s.beginStep.endStep t)) ∧
      u.npc .w32 = pc + 4#32 ∧ (pce = false → u.npc .w16 = pc + 2#32) ∧
      (pce = true → u.npc .w16 = (pc &&& 0xFFFFFFFC#32) + 4#32) ∧
      (∀ t, SameMem t (s.beginStep.endStep t) ∧ ∃ n, (s.beginStep.endStep t).wbuf = t.wbuf.drop n ∧
        (s.beginStep.endStep t).mem = t.mem.putStores (t.wbuf.take n))

/-- At a step that comes to its fetch: an odd pc or a pc out of the mode's range raises AdEL-instruction with EMA = pc,
else a bus error BusEL-instruction, else the P-bit failure P-EL with EMA = pc; the lower half of a PCE word entered
with T = 1 (the spec's decision D8) goes on at the next word and changes nothing else but the I-cache, unless
outside debug mode a bus error is pending or a software interrupt requested, which is then taken. In debug mode the
word of a drseg register is fetched like any other; a fetch from drseg where there is no register, from the
unassigned range, or from dmseg without a probe, stops by name (log 20). That range and bus error are asked at pc
and not at the word is log 47; that a taken bus error or software interrupt drops the I-cache fill is log 40, that
P-EL drops it too log 59, that it saves the step's pc log 16. (rests on 30_encoding.md R147; 20_memory.md R90;
20_memory.md R95; 60_exceptions.md R633; 60_exceptions.md R694; 60_exceptions.md R704) -/
def Obligations.FetchErrors : Prop :=
  ∀ s : State, Fetches s →
    (s.pc.getLsbD 0 = true ∨ s.forbidden s.pc = true →
      step s = .next (s.beginStep.endStep (takeException (.adelInstr s.pc) .w32 s.beginStep))) ∧
    (s.pc.getLsbD 0 = false → s.forbidden s.pc = false → s.busError .fetch s.pc = true →
      step s = .next (s.beginStep.endStep (takeException .buselInstr .w32 s.beginStep))) ∧
    (s.checkFetch = .ok → selectCode s.pcWord s.pc s.flags.t = .parity →
      step s = .next (s.beginStep.endStep (takeException (.pel s.pc) .w32 s.beginStep))) ∧
    (s.checkFetch = .ok → selectCode s.pcWord s.pc s.flags.t = .skip →
      (s.dreg.dm = true ∨ s.busErrPending = false ∧ ¬ SwiRequested s) →
      step s = .next (s.beginStep.endStep
        { s.beginStep.fillI s.pc with pc := (s.pc &&& 0xFFFFFFFC#32) + 4#32 })) ∧
    (s.checkFetch = .ok → selectCode s.pcWord s.pc s.flags.t = .skip → s.dreg.dm = false →
      (s.busErrPending = true → step s = .next (s.beginStep.endStep
        (takeException .buselData .w16 { s.beginStep with busErrPending := false }))) ∧
      (s.busErrPending = false → SwiRequested s →
        step s = .next (s.beginStep.endStep (takeException .swi .w16 s.beginStep)))) ∧
    (s.pc.getLsbD 0 = false → s.dreg.dm = true → s.busError .fetch s.pc = false →
      (∀ v, DrsegHolds s (s.pc &&& 0xFFFFFFFC#32) v → s.checkFetch = .ok ∧
        s.pcWord = if s.cfg.bigEndian = false ∧ s.cfg.leFetchSwap = true then v.rotateRight 16 else v) ∧
      (0xFFFF0000 ≤ s.pc.toNat → (∀ v, ¬ DrsegHolds s (s.pc &&& 0xFFFFFFFC#32) v) →
        step s = .fault .drsegAccess) ∧
      (0xFFF00000 ≤ s.pc.toNat → s.pc.toNat < 0xFFFF0000 → step s = .fault .unassignedDebugAddress) ∧
      (0xFF000000 ≤ s.pc.toNat → s.pc.toNat < 0xFFF00000 → s.cfg.probeEn = false → step s = .fault .noProbe))

/-- The free main opcodes, func6, func3, CR_OP and Sub-OP values of 32-bit instructions and the free OP, func4 and func3
values of 16-bit instructions raise RI. That the sentence of R190 covers sub-opcodes is the spec's decision D22.
(rests on 30_encoding.md R180 to R187; 30_encoding.md R190) -/
def Obligations.UndefinedOpcodes : Prop :=
  ∀ (w : BitVec 30) (h : BitVec 15) (s : State),
    ((fOp w).toNat ∈ [9, 10, 11, 14, 15, 25, 26, 27, 29, 30, 31] →
      runCode (.w32 w) s = .next (takeException .ri .w32 s)) ∧
    (fOp w = 0#5 → (fFunc6 w).toNat ∈ [14, 25, 38, 39, 50, 54, 57] →
      runCode (.w32 w) s = .next (takeException .ri .w32 s)) ∧
    (fOp w = 1#5 → (fI3 w).toNat ∈ [1, 3, 7] → runCode (.w32 w) s = .next (takeException .ri .w32 s)) ∧
    (fOp w = 5#5 → (fI3 w).toNat ∈ [1, 2, 3, 7] → runCode (.w32 w) s = .next (takeException .ri .w32 s)) ∧
    (fOp w = 6#5 → fCp w = 0#2 → w.getLsbD 2 = true → fCrOp w = 7#3 →
      runCode (.w32 w) s = .next (takeException .ri .w32 s)) ∧
    (fOp w = 6#5 → fCp w = 0#2 → w.getLsbD 2 = false → fCrOp w ≠ 0#3 →
      runCode (.w32 w) s = .next (takeException .ri .w32 s)) ∧
    (fOp w = 6#5 → fCp w ≠ 0#2 → fLow3 w = 5#3 → runCode (.w32 w) s = .next (takeException .ri .w32 s)) ∧
    (hOp h = 1#3 → runCode (.w16 h) s = .next (takeException .ri .w16 s)) ∧
    (hOp h = 0#3 → (hFunc4 h).toNat ∈ [6, 7, 13, 14, 15] → runCode (.w16 h) s = .next (takeException .ri .w16 s)) ∧
    (hOp h = 7#3 → (hFunc3 h).toNat ∈ [2, 6] → runCode (.w16 h) s = .next (takeException .ri .w16 s))

/-- The state after reset, and the state after a step with the reset input asserted, in every mode and asleep or awake,
hold the values R60 and R720 give, with an empty write buffer; memory stays, so stores still in the buffer are lost
(log 60). The control-register values follow the spec's decision D3; the values the spec leaves undefined are the
model's (log 1, log 3) and are not named here. (rests on 10_state.md R60; 70_reset_and_hazards.md R720;
70_reset_and_hazards.md R721) -/
def Obligations.ResetValues : Prop :=
  ResetState State.reset ∧
  ∀ s : State, s.pins.reset = true →
    Completes (step s) fun t => ResetState t ∧ t.mem = s.mem ∧ t.ibrk.length = s.ibrk.length ∧
      t.dbrk.length = s.dbrk.length ∧ t.cfg = s.cfg

/-- Memory in its canonical form over 32-bit addresses, the D-cache holding every address once and agreeing with memory
where clean, no dirty I-cache line, at most four words of stores in the write buffer and none in a disabled one:
true at reset. That memory and caches are empty at reset is the model's choice (log 4, log 6). (rests on
20_memory.md R80; 20_memory.md R112; 20_memory.md R120) -/
def Obligations.WfReset : Prop :=
  State.reset.Wf = true

/-- From every state that meets it, a step that answers a next state answers one in which memory has its canonical form
and holds 32-bit addresses only, the D-cache holds every address at most once, in aligned lines of sixteen cacheable
bytes that equal memory, with the buffered stores in it, unless dirty, no I-cache line is dirty, and the write
buffer holds at most four words of four bytes, and nothing when disabled. (rests on 20_memory.md R80; 20_memory.md
R110; 20_memory.md R112; 20_memory.md R120; 20_memory.md R121; 20_memory.md R127) -/
def Obligations.WfStep : Prop :=
  ∀ s t : State, s.Wf = true → step s = .next t → t.Wf = true

/-- With SSEn = 1 and a step made, the next boundary enters debug mode with cause DSS and DEPC = pc; every step of an
awake core leaves stepped exactly when it began outside debug mode with SSEn = 1 and ends outside debug mode. The
sequencing is the spec's decision D32. (rests on 60_exceptions.md R685; 60_exceptions.md R680) -/
def Obligations.SingleStep : Prop :=
  ∀ s : State, Awake s →
    (s.dreg.dm = false → s.dreg.ssEn = true → s.stepped = true →
      Completes (step s) fun t => t.dreg.dm = true ∧ t.dreg.cause = DebugExc.dss.cause ∧
        t.depc.addr = s.pc.extractLsb' 1 31 ∧ t.pc = s.debugVector ∧ t.stepped = false ∧ t.psr = s.psr ∧
        t.epc = s.epc ∧ t.ecr = s.ecr ∧ t.cond = s.cond ∧ SameRegs [] s t) ∧
    (∀ t, step s = .next t → t.stepped = (!s.dreg.dm && s.dreg.ssEn && !t.dreg.dm))

/-- After addc.c and subc.c, V is 1 exactly when the exact signed value of the whole three-term operation is outside
-2^31 .. 2^31 - 1, and C is the unsigned carry, or not-borrow: the closing inference of R222. (rests on
40_arith_logic.md R222; 40_arith_logic.md R231; 40_arith_logic.md R236) -/
def Obligations.OverflowIsExact : Prop :=
  ∀ (s : State) (rd ra rb : BitVec 5),
    Completes (exec (.addc rd ra rb true) s) (fun t =>
      (t.flags.v = true ↔ ¬ (-2147483648 ≤ (s.r ra).toInt + (s.r rb).toInt + (s.flags.c.toNat : Int) ∧
        (s.r ra).toInt + (s.r rb).toInt + (s.flags.c.toNat : Int) ≤ 2147483647)) ∧
      (t.flags.c = true ↔ 4294967296 ≤ (s.r ra).toNat + (s.r rb).toNat + s.flags.c.toNat)) ∧
    Completes (exec (.subc rd ra rb true) s) (fun t =>
      (t.flags.v = true ↔ ¬ (-2147483648 ≤ (s.r ra).toInt - (s.r rb).toInt - ((!s.flags.c).toNat : Int) ∧
        (s.r ra).toInt - (s.r rb).toInt - ((!s.flags.c).toNat : Int) ≤ 2147483647)) ∧
      (t.flags.c = true ↔ (s.r rb).toNat + (!s.flags.c).toNat ≤ (s.r ra).toNat))

/-- Each completes with the sum modulo 2^32 in its destination, N, Z, C, V by the bit formulas of R222 when it sets
flags and no flag changed otherwise, and nothing else changed but the pc. The meaning of carry and overflow is the
usual one that R222 takes from general knowledge. (rests on 40_arith_logic.md R222; 40_arith_logic.md R230 to R234;
46_16bit.md R515; 46_16bit.md R516; 46_16bit.md R520) -/
def Obligations.Additions : Prop :=
  ∀ (s : State) (rd ra rb : BitVec 5) (cu : Bool) (imm : BitVec 16) (imm14 : BitVec 14) (d a e : BitVec 4),
    Completes (exec (.add rd ra rb cu) s) (Adds rd .w32 (s.r ra) (s.r rb) false cu s) ∧
    Completes (exec (.addc rd ra rb cu) s) (Adds rd .w32 (s.r ra) (s.r rb) s.flags.c cu s) ∧
    Completes (exec (.addi rd imm cu) s) (Adds rd .w32 (s.r rd) (imm.signExtend 32) false cu s) ∧
    Completes (exec (.addis rd imm cu) s) (Adds rd .w32 (s.r rd) (imm ++ 0#16) false cu s) ∧
    Completes (exec (.addri rd ra imm14 cu) s) (Adds rd .w32 (s.r ra) (imm14.signExtend 32) false cu s) ∧
    Completes (exec (.add16 d a) s) (Adds (g0 d) .w16 (s.r (g0 d)) (s.r (g0 a)) false true s) ∧
    Completes (exec (.addc16 d a) s) (Adds (g0 d) .w16 (s.r (g0 d)) (s.r (g0 a)) s.flags.c true s) ∧
    Completes (exec (.addei16 d e) s) (Adds (g0 d) .w16 (s.r (g0 d)) (BitVec.ofNat 32 (2 ^ e.toNat)) false true s)

/-- Each completes with the difference modulo 2^32 in its destination, N, Z, C (not borrow), V by the bit formulas of
R222 when it sets flags and no flag changed otherwise, and nothing else changed but the pc. C as not-borrow and V
are the reading that R222 takes from general knowledge (log 37); C of subei! is the spec's decision D30. (rests on
40_arith_logic.md R222; 40_arith_logic.md R235 to R237; 46_16bit.md R517; 46_16bit.md R519; 46_16bit.md R521) -/
def Obligations.Subtractions : Prop :=
  ∀ (s : State) (rd ra rb : BitVec 5) (cu : Bool) (d a e : BitVec 4),
    Completes (exec (.sub rd ra rb cu) s) (Subtracts rd .w32 (s.r ra) (s.r rb) false cu s) ∧
    Completes (exec (.subc rd ra rb cu) s) (Subtracts rd .w32 (s.r ra) (s.r rb) (!s.flags.c) cu s) ∧
    Completes (exec (.neg rd rb cu) s) (Subtracts rd .w32 0#32 (s.r rb) false cu s) ∧
    Completes (exec (.sub16 d a) s) (Subtracts (g0 d) .w16 (s.r (g0 d)) (s.r (g0 a)) false true s) ∧
    Completes (exec (.neg16 d a) s) (Subtracts (g0 d) .w16 0#32 (s.r (g0 a)) false true s) ∧
    Completes (exec (.subei16 d e) s)
      (Subtracts (g0 d) .w16 (s.r (g0 d)) (BitVec.ofNat 32 (2 ^ e.toNat)) false true s)

/-- Each completes with N, Z, C, V of the subtraction, T by its TC field (cmpi and cmp! leave T) and nothing else
changed but the pc. TC = 10 leaves T as TC = 11 does, a decision of the spec (log 18). C and V of the subtraction
are the reading that R222 takes from general knowledge (log 37). (rests on 40_arith_logic.md R222; 40_arith_logic.md
R238 to R240; 30_encoding.md R172; 46_16bit.md R518) -/
def Obligations.CompareFlags : Prop :=
  ∀ (s : State) (tc : TestCond) (ra rb : BitVec 5) (imm : BitVec 16) (d a : BitVec 4),
    Completes (exec (.cmp tc ra rb) s) (Compares .w32 (s.r ra) (s.r rb) tc s) ∧
    Completes (exec (.cmpz tc ra) s) (Compares .w32 (s.r ra) 0#32 tc s) ∧
    Completes (exec (.cmpi ra imm) s) (Compares .w32 (s.r ra) (imm.signExtend 32) .none s) ∧
    Completes (exec (.cmp16 d a) s) (Compares .w16 (s.r (g0 d)) (s.r (g0 a)) .none s)

/-- After cmp.c, cmp! and cmpi.c, each of cs, cc, gtu, leu, eq, ne, gt, le, ge, lt holds exactly when the operands stand
in the relation the condition table's meaning column names. (rests on 30_encoding.md R170; 40_arith_logic.md R222) -/
def Obligations.ConditionsAfterCompare : Prop :=
  ∀ (s : State) (i : Instr) (a b : Word),
    ((∃ tc ra rb, i = .cmp tc ra rb ∧ a = s.r ra ∧ b = s.r rb) ∨
      (∃ tc ra, i = .cmpz tc ra ∧ a = s.r ra ∧ b = 0#32) ∨
      (∃ rd imm, i = .cmpi rd imm ∧ a = s.r rd ∧ b = imm.signExtend 32) ∨
      (∃ rd ra, i = .cmp16 rd ra ∧ a = s.r (g0 rd) ∧ b = s.r (g0 ra))) →
    Completes (exec i s) fun t =>
      (t.condHolds .cs = true ↔ b.toNat ≤ a.toNat) ∧ (t.condHolds .cc = true ↔ a.toNat < b.toNat) ∧
      (t.condHolds .gtu = true ↔ b.toNat < a.toNat) ∧ (t.condHolds .leu = true ↔ a.toNat ≤ b.toNat) ∧
      (t.condHolds .eq = true ↔ a = b) ∧ (t.condHolds .ne = true ↔ a ≠ b) ∧
      (t.condHolds .gt = true ↔ b.toInt < a.toInt) ∧ (t.condHolds .le = true ↔ a.toInt ≤ b.toInt) ∧
      (t.condHolds .ge = true ↔ b.toInt ≤ a.toInt) ∧ (t.condHolds .lt = true ↔ a.toInt < b.toInt)

/-- and, or, xor, not, their immediate forms and their 16-bit forms complete with the bitwise result in the destination;
with flags, N and Z are those of the result and C, V and T stay; without, no flag changes; nothing else changes but
the pc. (rests on 40_arith_logic.md R223; 40_arith_logic.md R245 to R254; 46_16bit.md R527 to R530) -/
def Obligations.Logical : Prop :=
  ∀ (s : State) (rd ra rb : BitVec 5) (cu : Bool) (imm : BitVec 16) (imm14 : BitVec 14) (d a : BitVec 4),
    Completes (exec (.and rd ra rb cu) s) (LogicalTo rd .w32 (s.r ra &&& s.r rb) cu s) ∧
    Completes (exec (.or rd ra rb cu) s) (LogicalTo rd .w32 (s.r ra ||| s.r rb) cu s) ∧
    Completes (exec (.xor rd ra rb cu) s) (LogicalTo rd .w32 (s.r ra ^^^ s.r rb) cu s) ∧
    Completes (exec (.not rd ra cu) s) (LogicalTo rd .w32 (~~~(s.r ra)) cu s) ∧
    Completes (exec (.andi rd imm cu) s) (LogicalTo rd .w32 (s.r rd &&& imm.setWidth 32) cu s) ∧
    Completes (exec (.andis rd imm cu) s) (LogicalTo rd .w32 (s.r rd &&& (imm ++ 0#16)) cu s) ∧
    Completes (exec (.andri rd ra imm14 cu) s) (LogicalTo rd .w32 (s.r ra &&& imm14.setWidth 32) cu s) ∧
    Completes (exec (.ori rd imm cu) s) (LogicalTo rd .w32 (s.r rd ||| imm.setWidth 32) cu s) ∧
    Completes (exec (.oris rd imm cu) s) (LogicalTo rd .w32 (s.r rd ||| (imm ++ 0#16)) cu s) ∧
    Completes (exec (.orri rd ra imm14 cu) s) (LogicalTo rd .w32 (s.r ra ||| imm14.setWidth 32) cu s) ∧
    Completes (exec (.and16 d a) s) (LogicalTo (g0 d) .w16 (s.r (g0 d) &&& s.r (g0 a)) true s) ∧
    Completes (exec (.or16 d a) s) (LogicalTo (g0 d) .w16 (s.r (g0 d) ||| s.r (g0 a)) true s) ∧
    Completes (exec (.xor16 d a) s) (LogicalTo (g0 d) .w16 (s.r (g0 d) ^^^ s.r (g0 a)) true s) ∧
    Completes (exec (.not16 d a) s) (LogicalTo (g0 d) .w16 (~~~(s.r (g0 a))) true s)

/-- Each completes with the named bit cleared, set or toggled in the destination (bittst writes none), N of the result,
and Z, C by the PG's rule or, as configured, by the TRM's; nothing else changes but the pc. Which rule is the
default is the spec's decision D23. (rests on 40_arith_logic.md R262 to R266; 46_16bit.md R531 to R535) -/
def Obligations.BitOperations : Prop :=
  ∀ (s : State) (rd ra bn : BitVec 5) (d : BitVec 4),
    Completes (exec (.bitclr rd ra bn) s)
      (BitTo rd .w32 (s.r ra &&& ~~~(BitVec.ofNat 32 (2 ^ bn.toNat))) ((s.r ra).getLsbD bn.toNat) s) ∧
    Completes (exec (.bitset rd ra bn) s)
      (BitTo rd .w32 (s.r ra ||| BitVec.ofNat 32 (2 ^ bn.toNat)) ((s.r ra).getLsbD bn.toNat) s) ∧
    Completes (exec (.bittgl rd ra bn) s)
      (BitTo rd .w32 (s.r ra ^^^ BitVec.ofNat 32 (2 ^ bn.toNat)) ((s.r ra).getLsbD bn.toNat) s) ∧
    Completes (exec (.bittst ra bn) s) (fun t => ComputeFrame [] .w32 s t ∧
      FlagsBit s.cfg s.flags t.flags (s.r ra) ((s.r ra).getLsbD bn.toNat)) ∧
    Completes (exec (.bitclr16 d bn) s)
      (BitTo (g0 d) .w16 (s.r (g0 d) &&& ~~~(BitVec.ofNat 32 (2 ^ bn.toNat))) ((s.r (g0 d)).getLsbD bn.toNat) s) ∧
    Completes (exec (.bitset16 d bn) s)
      (BitTo (g0 d) .w16 (s.r (g0 d) ||| BitVec.ofNat 32 (2 ^ bn.toNat)) ((s.r (g0 d)).getLsbD bn.toNat) s) ∧
    Completes (exec (.bittgl16 d bn) s)
      (BitTo (g0 d) .w16 (s.r (g0 d) ^^^ BitVec.ofNat 32 (2 ^ bn.toNat)) ((s.r (g0 d)).getLsbD bn.toNat) s) ∧
    Completes (exec (.bittst16 d bn) s) (fun t => ComputeFrame [] .w16 s t ∧
      FlagsBit s.cfg s.flags t.flags (s.r (g0 d)) ((s.r (g0 d)).getLsbD bn.toNat))

/-- ldi, ldis, ldiu!, mv!, mhfl!, mlfh! complete with their value in the destination and no flag changed; nop, nop! and
pflush change the pc only. A 4-bit field names r0..r15, for mhfl!'s destination and mlfh!'s source r16..r31. (rests
on 40_arith_logic.md R270 to R272; 45_system.md R490; 46_16bit.md R511; 46_16bit.md R522 to R526) -/
def Obligations.Moves : Prop :=
  ∀ (s : State) (rd : BitVec 5) (imm : BitVec 16) (imm8 : BitVec 8) (d a : BitVec 4),
    Completes (exec (.ldi rd imm) s) (MovesTo rd .w32 (imm.signExtend 32) s) ∧
    Completes (exec (.ldis rd imm) s) (MovesTo rd .w32 (imm ++ 0#16) s) ∧
    Completes (exec (.ldiu16 d imm8) s) (MovesTo (g0 d) .w16 (imm8.setWidth 32) s) ∧
    Completes (exec (.mv16 d a) s) (MovesTo (g0 d) .w16 (s.r (g0 a)) s) ∧
    Completes (exec (.mhfl16 d a) s) (MovesTo (g1 d) .w16 (s.r (g0 a)) s) ∧
    Completes (exec (.mlfh16 d a) s) (MovesTo (g0 d) .w16 (s.r (g1 a)) s) ∧
    (g0 d).toNat = d.toNat ∧ (g1 d).toNat = 16 + d.toNat ∧
    Completes (exec .nop s) (fun t => ComputeFrame [] .w32 s t ∧ SameFlags s t) ∧
    Completes (exec .nop16 s) (fun t => ComputeFrame [] .w16 s t ∧ SameFlags s t) ∧
    Completes (exec .pflush s) (fun t => ComputeFrame [] .w32 s t ∧ SameFlags s t)

/-- sll, srl, sra and their immediate and 16-bit forms complete with the shifted value; the amount of a register form is
the low five bits of the register. With flags, N and Z are those of the result, C the last bit shifted out, and any
value when nothing is shifted out (the spec's decision D7, log 10); V and T stay. (rests on 41_shift_ext_move.md
R281 to R287; 46_16bit.md R536 to R540) -/
def Obligations.Shifts : Prop :=
  ∀ (s : State) (rd ra rb sa : BitVec 5) (cu : Bool) (d a : BitVec 4) (n m : Nat),
    n = (s.r rb).toNat % 32 → m = (s.r (g0 a)).toNat % 32 →
    Completes (exec (.sll rd ra rb cu) s)
      (ShiftTo rd .w32 (s.r ra <<< n) n ((s.r ra).getLsbD (32 - n)) cu s) ∧
    Completes (exec (.srl rd ra rb cu) s)
      (ShiftTo rd .w32 (s.r ra >>> n) n ((s.r ra).getLsbD (n - 1)) cu s) ∧
    Completes (exec (.sra rd ra rb cu) s)
      (ShiftTo rd .w32 ((s.r ra).sshiftRight n) n ((s.r ra).getLsbD (n - 1)) cu s) ∧
    Completes (exec (.slli rd ra sa cu) s)
      (ShiftTo rd .w32 (s.r ra <<< sa.toNat) sa.toNat ((s.r ra).getLsbD (32 - sa.toNat)) cu s) ∧
    Completes (exec (.srli rd ra sa cu) s)
      (ShiftTo rd .w32 (s.r ra >>> sa.toNat) sa.toNat ((s.r ra).getLsbD (sa.toNat - 1)) cu s) ∧
    Completes (exec (.srai rd ra sa cu) s)
      (ShiftTo rd .w32 ((s.r ra).sshiftRight sa.toNat) sa.toNat ((s.r ra).getLsbD (sa.toNat - 1)) cu s) ∧
    Completes (exec (.sll16 d a) s)
      (ShiftTo (g0 d) .w16 (s.r (g0 d) <<< m) m ((s.r (g0 d)).getLsbD (32 - m)) true s) ∧
    Completes (exec (.srl16 d a) s)
      (ShiftTo (g0 d) .w16 (s.r (g0 d) >>> m) m ((s.r (g0 d)).getLsbD (m - 1)) true s) ∧
    Completes (exec (.sra16 d a) s)
      (ShiftTo (g0 d) .w16 ((s.r (g0 d)).sshiftRight m) m ((s.r (g0 d)).getLsbD (m - 1)) true s) ∧
    Completes (exec (.slli16 d sa) s)
      (ShiftTo (g0 d) .w16 (s.r (g0 d) <<< sa.toNat) sa.toNat ((s.r (g0 d)).getLsbD (32 - sa.toNat)) true s) ∧
    Completes (exec (.srli16 d sa) s)
      (ShiftTo (g0 d) .w16 (s.r (g0 d) >>> sa.toNat) sa.toNat ((s.r (g0 d)).getLsbD (sa.toNat - 1)) true s)

/-- rol, ror and their immediate forms complete with the value rotated; the four rotates through carry rotate the 33
bits of C and the register. With flags, N is that of the result and C the last bit rotated, unchanged for an amount
of 0; Z, V and T stay. (rests on 41_shift_ext_move.md R290 to R298) -/
def Obligations.Rotates : Prop :=
  ∀ (s : State) (rd ra rb sa : BitVec 5) (cu : Bool) (n : Nat),
    n = (s.r rb).toNat % 32 →
    Completes (exec (.rol rd ra rb cu) s)
      (RotateTo rd .w32 ((s.r ra).rotateLeft n) n ((s.r ra).getLsbD (32 - n)) cu s) ∧
    Completes (exec (.ror rd ra rb cu) s)
      (RotateTo rd .w32 ((s.r ra).rotateRight n) n ((s.r ra).getLsbD (n - 1)) cu s) ∧
    Completes (exec (.roli rd ra sa cu) s)
      (RotateTo rd .w32 ((s.r ra).rotateLeft sa.toNat) sa.toNat ((s.r ra).getLsbD (32 - sa.toNat)) cu s) ∧
    Completes (exec (.rori rd ra sa cu) s)
      (RotateTo rd .w32 ((s.r ra).rotateRight sa.toNat) sa.toNat ((s.r ra).getLsbD (sa.toNat - 1)) cu s) ∧
    Completes (exec (.rolc rd ra rb) s)
      (RotateTo rd .w32 (((BitVec.ofBool s.flags.c ++ s.r ra).rotateLeft n).setWidth 32) n
        ((s.r ra).getLsbD (32 - n)) true s) ∧
    Completes (exec (.rorc rd ra rb) s)
      (RotateTo rd .w32 (((BitVec.ofBool s.flags.c ++ s.r ra).rotateRight n).setWidth 32) n
        ((s.r ra).getLsbD (n - 1)) true s) ∧
    Completes (exec (.rolic rd ra sa) s)
      (RotateTo rd .w32 (((BitVec.ofBool s.flags.c ++ s.r ra).rotateLeft sa.toNat).setWidth 32) sa.toNat
        ((s.r ra).getLsbD (32 - sa.toNat)) true s) ∧
    Completes (exec (.roric rd ra sa) s)
      (RotateTo rd .w32 (((BitVec.ofBool s.flags.c ++ s.r ra).rotateRight sa.toNat).setWidth 32) sa.toNat
        ((s.r ra).getLsbD (sa.toNat - 1)) true s)

/-- Each completes with the low byte or halfword sign- or zero-extended to 32 bits in the destination; with flags only N
changes, to bit 31 of the result. (rests on 41_shift_ext_move.md R300 to R304) -/
def Obligations.Extensions : Prop :=
  ∀ (s : State) (rd ra : BitVec 5) (cu : Bool),
    Completes (exec (.extsb rd ra cu) s) (ExtendTo rd .w32 (((s.r ra).extractLsb' 0 8).signExtend 32) cu s) ∧
    Completes (exec (.extsh rd ra cu) s) (ExtendTo rd .w32 (((s.r ra).extractLsb' 0 16).signExtend 32) cu s) ∧
    Completes (exec (.extzb rd ra cu) s) (ExtendTo rd .w32 (s.r ra &&& 0xFF#32) cu s) ∧
    Completes (exec (.extzh rd ra cu) s) (ExtendTo rd .w32 (s.r ra &&& 0xFFFF#32) cu s)

/-- With a condition other than code 14, mv completes: the destination takes the source when the condition holds, and no
register changes otherwise. EC = 14, which the spec calls reserved, stops (log 19). (rests on 41_shift_ext_move.md
R310; 30_encoding.md R203) -/
def Obligations.ConditionalMove : Prop :=
  ∀ (s : State) (rd ra : BitVec 5) (ec : Cond),
    (ec ≠ .cnz → Completes (exec (.mvcond rd ra ec) s) fun t =>
      (s.condHolds ec = true → MovesTo rd .w32 (s.r ra) s t) ∧
      (s.condHolds ec = false → ComputeFrame [] .w32 s t ∧ SameFlags s t)) ∧
    (ec = .cnz → exec (.mvcond rd ra ec) s = .refused .reservedMoveCondition)

/-- T takes the value of the condition whose number the EC field holds, by the table of sixteen codes on the current
flags and CNT; no other flag, no register and not CNT changes. The CNZ row, CNT as unsigned and not 0, is the spec's
decision D9 (log 45). (rests on 30_encoding.md R170; 30_encoding.md R171; 41_shift_ext_move.md R320; 46_16bit.md
R541) -/
def Obligations.SetT : Prop :=
  ∀ (s : State) (c : Cond),
    Completes (exec (.tcond c) s) (fun t => ComputeFrame [] .w32 s t ∧
      t.flags = { s.flags with t := condTable c.toBits.toNat s.flags s.cnt }) ∧
    Completes (exec (.tcond16 c) s) (fun t => ComputeFrame [] .w16 s t ∧
      t.flags = { s.flags with t := condTable c.toBits.toNat s.flags s.cnt })

/-- mfsr completes with the special register in the destination; mtsr with the register's value in the special register
and the other two unchanged. (rests on 41_shift_ext_move.md R315; 41_shift_ext_move.md R316; 10_state.md R25) -/
def Obligations.SpecialRegisters : Prop :=
  ∀ (s : State) (r : BitVec 5),
    Completes (exec (.mfsr r 0) s) (MovesTo r .w32 s.cnt s) ∧
    Completes (exec (.mfsr r 1) s) (MovesTo r .w32 s.lcr s) ∧
    Completes (exec (.mfsr r 2) s) (MovesTo r .w32 s.scr s) ∧
    Completes (exec (.mtsr r 0) s) (fun t => SpecialFrame .w32 s t ∧ t.cnt = s.r r ∧ t.lcr = s.lcr ∧ t.scr = s.scr) ∧
    Completes (exec (.mtsr r 1) s) (fun t => SpecialFrame .w32 s t ∧ t.cnt = s.cnt ∧ t.lcr = s.r r ∧ t.scr = s.scr) ∧
    Completes (exec (.mtsr r 2) s) (fun t => SpecialFrame .w32 s t ∧ t.cnt = s.cnt ∧ t.lcr = s.lcr ∧ t.scr = s.r r)

/-- The target is the displacement times two below the high seven (32-bit) or twenty (16-bit) bits of the pc; jl writes
pc + 4 and jl! pc + 2 to r3; nothing else changes. (rests on 30_encoding.md R166; 42_branch_jump.md R331;
42_branch_jump.md R335; 42_branch_jump.md R336; 46_16bit.md R542; 46_16bit.md R543) -/
def Obligations.Jumps : Prop :=
  ∀ (s : State) (d24 : BitVec 24) (d11 : BitVec 11),
    Completes (exec (.j d24) s) (fun t =>
      t.pc = (s.pc &&& 0xFE000000#32) + BitVec.ofNat 32 (2 * d24.toNat) ∧ t.cnt = s.cnt ∧ JumpFrame [] s t) ∧
    Completes (exec (.jl d24) s) (fun t =>
      t.pc = (s.pc &&& 0xFE000000#32) + BitVec.ofNat 32 (2 * d24.toNat) ∧ t.r 3#5 = s.pc + 4#32 ∧ t.cnt = s.cnt ∧
      JumpFrame [3#5] s t) ∧
    Completes (exec (.j16 d11) s) (fun t =>
      t.pc = (s.pc &&& 0xFFFFF000#32) + BitVec.ofNat 32 (2 * d11.toNat) ∧ t.cnt = s.cnt ∧ JumpFrame [] s t) ∧
    Completes (exec (.jl16 d11) s) (fun t =>
      t.pc = (s.pc &&& 0xFFFFF000#32) + BitVec.ofNat 32 (2 * d11.toNat) ∧ t.r 3#5 = s.pc + 2#32 ∧ t.cnt = s.cnt ∧
      JumpFrame [3#5] s t)

/-- b<cond>, b<cond>l, br<cond>, br<cond>l, b<cond>!, br<cond>!, br<cond>l! complete at their target when the condition
holds and at the next instruction otherwise; a cnz branch decrements CNT when it is not 0; a linking form writes r3
when it branches (always, as configured: the spec's decision D29), the target of a register form being read first.
CNT as unsigned is the spec's decision D9. (rests on 42_branch_jump.md R331; 42_branch_jump.md R332;
42_branch_jump.md R340 to R346; 30_encoding.md R166; 46_16bit.md R544 to R546) -/
def Obligations.BranchInstructions : Prop :=
  ∀ (s : State) (c : Cond) (ra : BitVec 5) (d19 : BitVec 19) (d8 : BitVec 8) (a : BitVec 4),
    Completes (exec (.bcond c d19) s) (Branches .w32 c false (s.pc + 2#32 * d19.signExtend 32) s) ∧
    Completes (exec (.bcondl c d19) s) (Branches .w32 c true (s.pc + 2#32 * d19.signExtend 32) s) ∧
    Completes (exec (.brcond ra c) s) (Branches .w32 c false (s.r ra) s) ∧
    Completes (exec (.brcondl ra c) s) (Branches .w32 c true (s.r ra) s) ∧
    Completes (exec (.bcond16 c d8) s) (Branches .w16 c false (s.pc + 2#32 * d8.signExtend 32) s) ∧
    Completes (exec (.brcond16 c a) s) (Branches .w16 c false (s.r (g0 a)) s) ∧
    Completes (exec (.brcondl16 c a) s) (Branches .w16 c true (s.r (g0 a)) s)

/-- lw, lh, lhu, lb, lbu, lw!, lh!, lbu!, lwp!, lhp!, lbup!, at an address whose access is allowed, complete with the
word, or the sign- or zero-extended halfword or byte, at the effective address in the destination; memory as loads
see it, every other register, every flag and every special and control register stay. With CCR.RdBpDis set every
buffered store has then reached memory; else the write buffer stays unless a dirty line of the D-cache is lost. That
a dirty line lost to the fill of a load reaches memory after the whole write buffer, which it empties, and that
CCR.RdBpDis makes a load drain the buffer whatever its address, are the model's choice (log 22; R112 and R113 are
silent). (rests on 20_memory.md R84; 20_memory.md R110 to R113; 43_load_store.md R361; 43_load_store.md R364;
43_load_store.md R367; 43_load_store.md R370; 43_load_store.md R373; 43_load_store.md R376; 46_16bit.md R548 to
R552; 46_16bit.md R562 to R564) -/
def Obligations.Loads : Prop :=
  ∀ (s : State) (rd ra : BitVec 5) (imm : BitVec 15) (d a : BitVec 4) (i5 : BitVec 5),
    LoadsTo rd .w32 s (s.offsetAddr ra imm) 4 (s.word (s.offsetAddr ra imm)) (.lw rd ra imm) ∧
    LoadsTo rd .w32 s (s.offsetAddr ra imm) 2 ((s.half (s.offsetAddr ra imm)).signExtend 32) (.lh rd ra imm) ∧
    LoadsTo rd .w32 s (s.offsetAddr ra imm) 2 ((s.half (s.offsetAddr ra imm)).setWidth 32) (.lhu rd ra imm) ∧
    LoadsTo rd .w32 s (s.offsetAddr ra imm) 1 ((s.readByte (s.offsetAddr ra imm)).signExtend 32) (.lb rd ra imm) ∧
    LoadsTo rd .w32 s (s.offsetAddr ra imm) 1 ((s.readByte (s.offsetAddr ra imm)).setWidth 32) (.lbu rd ra imm) ∧
    LoadsTo (g0 d) .w16 s (s.r (g0 a)) 4 (s.word (s.r (g0 a))) (.lw16 d a) ∧
    LoadsTo (g0 d) .w16 s (s.r (g0 a)) 2 ((s.half (s.r (g0 a))).signExtend 32) (.lh16 d a) ∧
    LoadsTo (g0 d) .w16 s (s.r (g0 a)) 1 ((s.readByte (s.r (g0 a))).setWidth 32) (.lbu16 d a) ∧
    LoadsTo (g0 d) .w16 s (s.bpAddr i5 2) 4 (s.word (s.bpAddr i5 2)) (.lwp16 d i5) ∧
    LoadsTo (g0 d) .w16 s (s.bpAddr i5 1) 2 ((s.half (s.bpAddr i5 1)).signExtend 32) (.lhp16 d i5) ∧
    LoadsTo (g0 d) .w16 s (s.bpAddr i5 0) 1 ((s.readByte (s.bpAddr i5 0)).setWidth 32) (.lbup16 d i5) ∧
    s.offsetAddr ra imm = s.r ra + imm.signExtend 32 ∧
    s.bpAddr i5 2 = s.r 2#5 + BitVec.ofNat 32 (4 * i5.toNat) ∧
    s.bpAddr i5 1 = s.r 2#5 + BitVec.ofNat 32 (2 * i5.toNat) ∧
    s.bpAddr i5 0 = s.r 2#5 + BitVec.ofNat 32 i5.toNat

/-- A pre-indexed load reads at the base plus the offset, a post-indexed one at the base; both leave base plus offset in
the base register. If destination and base are one register the spec gives no result and its value is open (log 13);
all else holds there too. That a dirty line lost to the fill of a load reaches memory after the whole write buffer,
which it empties, and that CCR.RdBpDis makes a load drain the buffer whatever its address, are the model's choice
(log 22; R112 and R113 are silent). (rests on 20_memory.md R110 to R113; 43_load_store.md R361; 43_load_store.md
R363; 43_load_store.md R365 to R378) -/
def Obligations.IndexedLoads : Prop :=
  ∀ (s : State) (rd ra : BitVec 5) (imm : BitVec 12) (p a : Word),
    p = s.indexedBase ra imm → a = s.r ra →
    LoadsIndexed rd ra .w32 s p 4 (s.word p) p (.lwPre rd ra imm) ∧
    LoadsIndexed rd ra .w32 s p 2 ((s.half p).signExtend 32) p (.lhPre rd ra imm) ∧
    LoadsIndexed rd ra .w32 s p 2 ((s.half p).setWidth 32) p (.lhuPre rd ra imm) ∧
    LoadsIndexed rd ra .w32 s p 1 ((s.readByte p).signExtend 32) p (.lbPre rd ra imm) ∧
    LoadsIndexed rd ra .w32 s p 1 ((s.readByte p).setWidth 32) p (.lbuPre rd ra imm) ∧
    LoadsIndexed rd ra .w32 s a 4 (s.word a) p (.lwPost rd ra imm) ∧
    LoadsIndexed rd ra .w32 s a 2 ((s.half a).signExtend 32) p (.lhPost rd ra imm) ∧
    LoadsIndexed rd ra .w32 s a 2 ((s.half a).setWidth 32) p (.lhuPost rd ra imm) ∧
    LoadsIndexed rd ra .w32 s a 1 ((s.readByte a).signExtend 32) p (.lbPost rd ra imm) ∧
    LoadsIndexed rd ra .w32 s a 1 ((s.readByte a).setWidth 32) p (.lbuPost rd ra imm) ∧
    p = s.r ra + imm.signExtend 32

/-- sw, sh, sb, sw!, sh!, sb!, swp!, shp!, sbp!, at an address whose access is allowed, complete with the low four, two
or one bytes of the source at the effective address, in the machine's byte order; every other byte, every register,
flag and special and control register stay. With CCR.WB = 0 the bytes, and every earlier store, have then reached
memory; with CCR.WB = 1 those that no line in write-back mode takes are the youngest word of the write buffer, and
the oldest of a full buffer has reached memory. That a store is one word of the enabled write buffer of its own,
never merged, and that a full buffer then gives up its oldest, are the model's choice (log 22; R112 is silent).
(rests on 20_memory.md R84; 20_memory.md R110; 20_memory.md R112; 43_load_store.md R361; 43_load_store.md R379;
43_load_store.md R382; 43_load_store.md R385; 46_16bit.md R553 to R555; 46_16bit.md R565 to R567) -/
def Obligations.Stores : Prop :=
  ∀ (s : State) (rd ra : BitVec 5) (imm : BitVec 15) (d a : BitVec 4) (i5 : BitVec 5),
    StoresAt .w32 s (s.offsetAddr ra imm) 4 (s.r rd) (.sw rd ra imm) ∧
    StoresAt .w32 s (s.offsetAddr ra imm) 2 (s.r rd) (.sh rd ra imm) ∧
    StoresAt .w32 s (s.offsetAddr ra imm) 1 (s.r rd) (.sb rd ra imm) ∧
    StoresAt .w16 s (s.r (g0 a)) 4 (s.r (g0 d)) (.sw16 d a) ∧
    StoresAt .w16 s (s.r (g0 a)) 2 (s.r (g0 d)) (.sh16 d a) ∧
    StoresAt .w16 s (s.r (g0 a)) 1 (s.r (g0 d)) (.sb16 d a) ∧
    StoresAt .w16 s (s.bpAddr i5 2) 4 (s.r (g0 d)) (.swp16 d i5) ∧
    StoresAt .w16 s (s.bpAddr i5 1) 2 (s.r (g0 d)) (.shp16 d i5) ∧
    StoresAt .w16 s (s.bpAddr i5 0) 1 (s.r (g0 d)) (.sbp16 d i5)

/-- A pre-indexed store writes at the base plus the offset, a post-indexed one at the base; both leave base plus offset
in the base register. If source and base are one register, the register's old value is stored. That a store is one
word of the enabled write buffer of its own, never merged, and that a full buffer then gives up its oldest, are the
model's choice (log 22; R112 is silent). (rests on 20_memory.md R110 to R112; 43_load_store.md R361;
43_load_store.md R363; 43_load_store.md R380; 43_load_store.md R381; 43_load_store.md R383; 43_load_store.md R384;
43_load_store.md R386; 43_load_store.md R387) -/
def Obligations.IndexedStores : Prop :=
  ∀ (s : State) (rd ra : BitVec 5) (imm : BitVec 12),
    StoresIndexed ra .w32 s (s.indexedBase ra imm) 4 (s.r rd) (s.r ra + imm.signExtend 32) (.swPre rd ra imm) ∧
    StoresIndexed ra .w32 s (s.indexedBase ra imm) 2 (s.r rd) (s.r ra + imm.signExtend 32) (.shPre rd ra imm) ∧
    StoresIndexed ra .w32 s (s.indexedBase ra imm) 1 (s.r rd) (s.r ra + imm.signExtend 32) (.sbPre rd ra imm) ∧
    StoresIndexed ra .w32 s (s.r ra) 4 (s.r rd) (s.r ra + imm.signExtend 32) (.swPost rd ra imm) ∧
    StoresIndexed ra .w32 s (s.r ra) 2 (s.r rd) (s.r ra + imm.signExtend 32) (.shPost rd ra imm) ∧
    StoresIndexed ra .w32 s (s.r ra) 1 (s.r rd) (s.r ra + imm.signExtend 32) (.sbPost rd ra imm)

/-- push! writes the source, read first, to the word at base - 4 and leaves base - 4; pop! loads the word at the base
and leaves base + 4 (destination and base in one register: open, log 13). The five-bit destination of both reaches
r0..r31, the base r0..r7. What pop! and push! do to the write buffer is in part the model's choice (log 22; R112 and
R113 are silent): a dirty line lost to a fill reaches memory after the whole buffer, which it empties; CCR.RdBpDis
makes a load drain the buffer whatever its address; a store is one word of the enabled buffer of its own, never
merged; a full buffer then gives up its oldest. (rests on 20_memory.md R110 to R113; 46_16bit.md R560; 46_16bit.md
R561; 30_encoding.md R164; 43_load_store.md R363) -/
def Obligations.PushPop : Prop :=
  ∀ (s : State) (rd : BitVec 5) (b : BitVec 3),
    StoresIndexed (gBase b) .w16 s (s.pushAddr b) 4 (s.r rd) (s.r (gBase b) - 4#32) (.push16 rd b) ∧
    s.pushAddr b = s.r (gBase b) - 4#32 ∧ (gBase b).toNat = b.toNat ∧
    LoadsIndexed rd (gBase b) .w16 s (s.r (gBase b)) 4 (s.word (s.r (gBase b))) (s.r (gBase b) + 4#32)
      (.pop16 rd b) ∧
    (∀ rd', StoreReady s (.at (s.pushAddr b) 4) (s.r rd) → LoadReady s (.at (s.pushAddr b) 4) → s.mem.wf = true →
      rd' ≠ gBase b →
      ∃ t u, exec (.push16 rd b) s = .next t ∧ exec (.pop16 rd' b) t = .next u ∧ u.r rd' = s.r rd ∧
        u.r (gBase b) = s.r (gBase b))

/-- lcb leaves the aligned word in LCR; lcw and lce leave in the destination the low 4 - byte bytes of the old LCR above
the high byte bytes of the word, and the word in LCR; with byte = 0 lce reads nothing and the destination takes LCR.
All add 4 to the base. Destination and base in one register: open (log 13). byte is the offset in its word, from the
other end in little endian. That a dirty line lost to the fill of a load reaches memory after the whole write
buffer, which it empties, and that CCR.RdBpDis makes a load drain the buffer whatever its address, are the model's
choice (log 22; R112 and R113 are silent). (rests on 20_memory.md R110 to R113; 43_load_store.md R389;
43_load_store.md R390 to R393) -/
def Obligations.LoadCombine : Prop :=
  ∀ (s : State) (rd ra : BitVec 5) (n : Nat) (wa : Word),
    n = (if s.cfg.bigEndian then (s.r ra).toNat % 4 else 3 - (s.r ra).toNat % 4) → wa = s.r ra &&& 0xFFFFFFFC#32 →
    (LoadReady s (.at wa 4) → Completes (exec (.lcb ra) s) fun t => t.lcr = s.word wa ∧ t.r ra = s.r ra + 4#32 ∧
      t.cnt = s.cnt ∧ t.scr = s.scr ∧ SameCops s t ∧ t.atbit = s.atbit ∧ LoadFrame [ra] .w32 s t) ∧
    (∀ i, i = .lcw rd ra ∨ (i = .lce rd ra ∧ n ≠ 0) → LoadReady s (.at wa 4) → Completes (exec i s) fun t =>
      (rd ≠ ra → t.r rd = (s.lcr <<< (8 * n)) ||| (s.word wa >>> (32 - 8 * n)) ∧ t.r ra = s.r ra + 4#32) ∧
      t.lcr = s.word wa ∧ t.cnt = s.cnt ∧ t.scr = s.scr ∧ SameCops s t ∧ t.atbit = s.atbit ∧
      LoadFrame [rd, ra] .w32 s t) ∧
    (n = 0 → Completes (exec (.lce rd ra) s) fun t =>
      (rd ≠ ra → t.r rd = s.lcr ∧ t.r ra = s.r ra + 4#32) ∧ ComputeFrame [rd, ra] .w32 s t ∧ SameFlags s t)

/-- scb writes the high 4 - byte bytes of the source from the address to the end of its word (in little endian from the
start of the word to the address); scw writes the aligned word made of the high byte bytes of SCR above the high
bytes of the source; both leave the source rotated right by byte bytes in SCR. sce writes the remaining byte bytes
from SCR, none for byte = 0. All add 4 to the base. That a store is one word of the enabled write buffer of its own,
never merged, and that a full buffer then gives up its oldest, are the model's choice (log 22; R112 is silent).
(rests on 20_memory.md R110 to R112; 43_load_store.md R389; 43_load_store.md R394 to R397) -/
def Obligations.StoreCombine : Prop :=
  ∀ (s : State) (rd ra : BitVec 5) (n : Nat) (wa : Word),
    n = (if s.cfg.bigEndian then (s.r ra).toNat % 4 else 3 - (s.r ra).toNat % 4) → wa = s.r ra &&& 0xFFFFFFFC#32 →
    s.mem.wf = true →
    (StoreReady s (s.scbAccess ra) (s.r rd >>> (8 * n)) → Completes (exec (.scb rd ra) s) fun t =>
      t.word wa = (s.word wa &&& ~~~(0xFFFFFFFF#32 >>> (8 * n))) ||| (s.r rd >>> (8 * n)) ∧
      t.scr = (s.r rd).rotateRight (8 * n) ∧ t.cnt = s.cnt ∧ t.lcr = s.lcr ∧ t.r ra = s.r ra + 4#32 ∧
      StoreFrame [ra] .w32 (s.scbAccess ra).addr (4 - n) s t) ∧
    (StoreReady s (.at wa 4) ((s.scr &&& ~~~(0xFFFFFFFF#32 >>> (8 * n))) ||| (s.r rd >>> (8 * n))) →
      Completes (exec (.scw rd ra) s) fun t =>
      t.word wa = (s.scr &&& ~~~(0xFFFFFFFF#32 >>> (8 * n))) ||| (s.r rd >>> (8 * n)) ∧
      t.scr = (s.r rd).rotateRight (8 * n) ∧ t.cnt = s.cnt ∧ t.lcr = s.lcr ∧ t.r ra = s.r ra + 4#32 ∧
      StoreFrame [ra] .w32 wa 4 s t) ∧
    (n ≠ 0 → StoreReady s (s.sceAccess ra) (s.scr >>> (32 - 8 * n)) → Completes (exec (.sce ra) s) fun t =>
      t.word wa = (s.scr &&& ~~~(0xFFFFFFFF#32 >>> (8 * n))) ||| (s.word wa &&& (0xFFFFFFFF#32 >>> (8 * n))) ∧
      t.r ra = s.r ra + 4#32 ∧ PlainStore [ra] .w32 (s.sceAccess ra).addr n s t) ∧
    (n = 0 → Completes (exec (.sce ra) s) fun t =>
      t.r ra = s.r ra + 4#32 ∧ ComputeFrame [ra] .w32 s t ∧ SameFlags s t)

/-- From every state that meets the invariant, with both aligned words readable and two different registers: after lcb
and lce the destination holds the big-endian word that starts at the address the base held, whatever its alignment,
and the base is that address plus 8. (rests on 43_load_store.md R390; 43_load_store.md R392; 43_load_store.md R393) -/
def Obligations.UnalignedLoad : Prop :=
  ∀ (s : State) (rd ra : BitVec 5),
    s.Wf = true → s.cfg.bigEndian = true → rd ≠ ra → LoadReady s (.at (s.combineWord ra) 4) →
    ((s.r ra).toNat % 4 ≠ 0 → LoadReady s (.at (s.combineWord ra + 4#32) 4)) →
    ∃ t u, exec (.lcb ra) s = .next t ∧ exec (.lce rd ra) t = .next u ∧ u.r rd = s.word (s.r ra) ∧
      u.r ra = s.r ra + 8#32 ∧ SameRegs [rd, ra] s u ∧ SameMem s u

/-- From every state whose memory has its canonical form, with both stores allowed and two different registers: after
scb and sce the big-endian word that starts at the address the base held is the source, every other byte is as
before, and the base is that address plus 8. (rests on 43_load_store.md R394; 43_load_store.md R395;
43_load_store.md R397) -/
def Obligations.UnalignedStore : Prop :=
  ∀ (s : State) (rd ra : BitVec 5) (n : Nat),
    s.mem.wf = true → s.cfg.bigEndian = true → rd ≠ ra → n = (s.r ra).toNat % 4 →
    StoreReady s (s.scbAccess ra) (s.r rd >>> (8 * n)) →
    (n ≠ 0 → StoreReady s ⟨s.combineWord ra + 4#32, n, s.combineWord ra + 4#32⟩
      (s.r rd &&& ~~~(0xFFFFFFFF#32 <<< (8 * n)))) →
    ∃ t u, exec (.scb rd ra) s = .next t ∧ exec (.sce ra) t = .next u ∧ u.word (s.r ra) = s.r rd ∧
      SameMemBut (s.r ra) 4 s u ∧ u.r ra = s.r ra + 8#32 ∧ SameRegs [ra] s u

/-- alw loads as lw does and sets ATbit. asw with ATbit = 1 stores the source and leaves 1 in it; with ATbit = 0 it
stores nothing and leaves 0, after the checks of alignment and range; ATbit stays. That the checks are always made
is the spec's decision D17. What alw and a storing asw do to the write buffer is in part the model's choice (log 22;
R112 and R113 are silent): a dirty line lost to a fill reaches memory after the whole buffer, which it empties;
CCR.RdBpDis makes a load drain the buffer whatever its address; a store is one word of the enabled buffer of its
own, never merged; a full buffer then gives up its oldest. (rests on 20_memory.md R110 to R113; 43_load_store.md
R398; 43_load_store.md R399; 10_state.md R28) -/
def Obligations.AtomicPair : Prop :=
  ∀ (s : State) (rd ra : BitVec 5),
    (LoadReady s (.at (s.r ra) 4) → Completes (exec (.alw rd ra) s) fun t =>
      t.r rd = s.word (s.r ra) ∧ t.atbit = true ∧ LoadFrame [rd] .w32 s t ∧ SameSpecial s t ∧ SameCops s t) ∧
    (s.atbit = true → StoreReady s (.at (s.r ra) 4) (s.r rd) → s.mem.wf = true →
      Completes (exec (.asw rd ra) s) fun t =>
        t.word (s.r ra) = s.r rd ∧ t.r rd = 1#32 ∧ PlainStore [rd] .w32 (s.r ra) 4 s t) ∧
    (s.atbit = false → (s.r ra).toNat % 4 = 0 → s.forbidden (s.r ra) = false →
      Completes (exec (.asw rd ra) s) fun t => t.r rd = 0#32 ∧ ComputeFrame [rd] .w32 s t ∧ SameFlags s t) ∧
    (s.atbit = false → (s.r ra).toNat % 4 ≠ 0 ∨ s.forbidden (s.r ra) = true →
      exec (.asw rd ra) s = .next (takeException (.ades (s.r ra)) .w32 s))

/-- Every load and store of a halfword at an odd address or a word off its boundary, with no breakpoint on it: outside
debug mode Exc_code is 11 for a load and 12 for a store, EMA is the effective address, and no register, no base and
no byte of memory changes; in debug mode the same exception re-enters debug mode (R682, the spec's decision D34, log
43), so the sentence on EMA is stated outside it only. (rests on 20_memory.md R89; 60_exceptions.md R660;
60_exceptions.md R682) -/
def Obligations.Misaligned : Prop :=
  ∀ (s : State) (i : Instr) (d : DataAccess),
    s.dataAccess i = some d → d.copReady s → d.unwatched s →
    (d.acc.bytes = 2 ∧ d.acc.addr.toNat % 2 = 1 ∨ d.acc.bytes = 4 ∧ d.acc.addr.toNat % 4 ≠ 0) →
    (d.kind = .load ∨ d.kind = .store) ∧
    Completes (exec i s) fun t =>
      t = takeException (if d.kind = .load then .adelData d.acc.addr else .ades d.acc.addr) (encode i).width s ∧
      (s.dreg.dm = false →
        t.ecr.excCode = (if d.kind = .load then 11#5 else 12#5) ∧ t.ema = d.acc.addr) ∧
      SameRegs [] s t ∧ SameMem s t

/-- Every load and store, of any size, in user mode to kernel space, or outside debug mode to 0xFF000000 and above, with
no breakpoint on it, raises AdEL-data or AdES with EMA = the address and changes no register and no byte. In debug
mode an access to the unassigned range, to dmseg without a probe, or to drseg other than by a word stops by name
(log 20). The accesses of lcb, lcw, lce, scb, scw, sce are never misaligned. (rests on 20_memory.md R95;
20_memory.md R100; 20_memory.md R102; 43_load_store.md R389) -/
def Obligations.ForbiddenAccess : Prop :=
  ∀ (s : State) (i : Instr) (d : DataAccess), s.dataAccess i = some d →
    (d.copReady s → d.unwatched s →
      (s.dreg.dm = false ∧ s.psr.umc = true ∧ s.kernelSpace d.acc.addr = true ∨
        s.dreg.dm = false ∧ 0xFF000000 ≤ d.acc.addr.toNat) →
      Completes (exec i s) fun t =>
        t = takeException (if d.kind = .load then .adelData d.acc.addr else .ades d.acc.addr) (encode i).width s ∧
        t.ecr.excCode = (if d.kind = .load then 11#5 else 12#5) ∧ t.ema = d.acc.addr ∧ SameRegs [] s t ∧
        SameMem s t) ∧
    (d.copReady s → s.dreg.dm = true → s.addrError d.kind d.acc.addr d.acc.bytes = none →
      s.busError d.kind d.acc.addr = false →
      (0xFFFF0000 ≤ d.acc.addr.toNat → d.acc.bytes ≠ 4 → exec i s = .fault .drsegAccess) ∧
      (0xFFF00000 ≤ d.acc.addr.toNat → d.acc.addr.toNat < 0xFFFF0000 →
        exec i s = .fault .unassignedDebugAddress) ∧
      (0xFF000000 ≤ d.acc.addr.toNat → d.acc.addr.toNat < 0xFFF00000 → s.cfg.probeEn = false →
        exec i s = .fault .noProbe)) ∧
    ((∃ rd ra, i = .lcb ra ∨ i = .lcw rd ra ∨ i = .lce rd ra ∨ i = .scb rd ra ∨ i = .scw rd ra ∨ i = .sce ra) →
      ¬ (d.acc.bytes = 2 ∧ d.acc.addr.toNat % 2 = 1) ∧ ¬ (d.acc.bytes = 4 ∧ d.acc.addr.toNat % 4 ≠ 0))

/-- Where the platform answers a bus error to an access that passed the other checks: a load, and a store with the write
buffer off, raises BusEL-data and writes nothing; a store with the write buffer on goes on: its data is lost, the
error stays pending, and the base, SCR and the 1 of asw are written as by a store that succeeds, nothing else but
the pc: what waits in the write buffer stays. What becomes of the data and of the pending error is the spec's
decision D34. (rests on 20_memory.md R104; 60_exceptions.md R636; 60_exceptions.md R702; 43_load_store.md R363;
43_load_store.md R395 to R397; 43_load_store.md R399; 46_16bit.md R560) -/
def Obligations.BusErrors : Prop :=
  ∀ (s : State) (i : Instr) (d : DataAccess),
    s.dataAccess i = some d → d.copReady s → d.unwatched s → s.addrError d.kind d.acc.addr d.acc.bytes = none →
    s.busError d.kind d.acc.addr = true →
    (d.kind = .load ∨ s.ccr.wb = false → exec i s = .next (takeException .buselData (encode i).width s)) ∧
    (d.kind = .store → s.ccr.wb = true → Completes (exec i s) fun t =>
      t.busErrPending = true ∧ (∀ p ∈ s.storeRegs i, t.r p.1 = p.2) ∧
        SameRegs ((s.storeRegs i).map Prod.fst) s t ∧ t.scr = s.storeScr i ∧ t.cnt = s.cnt ∧ t.lcr = s.lcr ∧
        SameMem s t ∧ SameBuffer s t ∧ SameFlags s t ∧ SameCe s t ∧ t.pc = s.npc (encode i).width ∧ SameControl s t ∧ SameDebug s t ∧
        SameCops s t ∧ t.atbit = s.atbit ∧ t.icache = s.icache ∧ t.ddblvPending = s.ddblvPending ∧
        t.raised = s.raised)

/-- Outside debug mode, for an enabled breakpoint that matches by the condition of R712: a load on an address-only match
enters debug mode with DDBLA and a store with DDBS, nothing being loaded or stored; a load on an address and value
match completes and leaves the DDBLV pending. The terms of the condition are as the spec's decision D33 fixes them;
the lanes are those of the table of R85, a halfword's by address bit 1 alone, and all four for a word at any address
(log 57). (rests on 60_exceptions.md R688; 60_exceptions.md R712; 60_exceptions.md R660; 20_memory.md R85) -/
def Obligations.DataBreakpoints : Prop :=
  ∀ (s : State) (i : Instr) (d : DataAccess) (b : DataBreak),
    s.dataAccess i = some d → d.copReady s → s.dreg.dm = false → b ∈ s.dbrk → b.be = true →
    (d.kind = .load → b.noLb = false → BreakAddr b s.cfg.curAsid (d.acc.view s.cfg.bigEndian []) →
      BreakNoValue b (d.acc.view s.cfg.bigEndian []) →
      exec i s = .next (debugEnter .ddbla (encode i).width s)) ∧
    (∀ v, v = d.acc.view s.cfg.bigEndian (valueBytes s.cfg.bigEndian d.value d.acc.bytes) → d.kind = .store →
      b.noSb = false → BreakAddr b s.cfg.curAsid v → BreakNoValue b v ∨ BreakValue b v →
      exec i s = .next (debugEnter .ddbs (encode i).width s)) ∧
    (∀ v, v = d.acc.view s.cfg.bigEndian (valueBytes s.cfg.bigEndian (s.readMem d.acc.addr d.acc.bytes) d.acc.bytes) →
      d.kind = .load → b.noLb = false → BreakAddr b s.cfg.curAsid v → ¬ BreakNoValue b v → BreakValue b v →
      LoadReady s d.acc →
      Completes (exec i s) fun t => t.ddblvPending = true ∧ t.raised = s.raised ∧ t.pc = s.npc (encode i).width) ∧
    (∀ vs, tableLanes s.cfg.bigEndian d.acc.addr d.acc.bytes (d.acc.view s.cfg.bigEndian vs).lanes)

/-- CEH and CEL together are the signed or unsigned 64-bit product of the two registers; no register, flag or byte
changes. (rests on 44_ce_cop.md R421; 44_ce_cop.md R422) -/
def Obligations.Multiply : Prop :=
  ∀ (s : State) (ra rb : BitVec 5),
    Completes (exec (.mul ra rb) s) (fun t =>
      t.ceh ++ t.cel = (s.r ra).signExtend 64 * (s.r rb).signExtend 64 ∧ CeFrame [] .w32 s t) ∧
    Completes (exec (.mulu ra rb) s) (fun t =>
      t.ceh ++ t.cel = (s.r ra).setWidth 64 * (s.r rb).setWidth 64 ∧ CeFrame [] .w32 s t)

/-- For a divisor other than 0, CEL is the quotient and CEH the remainder: dividend = divisor * quotient + remainder,
the remainder smaller than the divisor and, in div, of the dividend's sign (truncation, the usual reading; log 35).
-2^31 / -1 completes with CEH and CEL open (log 11). A divisor of 0 raises CeE, CEH and CEL alone being open. (rests
on 44_ce_cop.md R423 to R425; 60_exceptions.md R643) -/
def Obligations.Divide : Prop :=
  ∀ (s : State) (ra rb : BitVec 5),
    (s.r rb ≠ 0#32 → ¬ (s.r ra = 0x80000000#32 ∧ s.r rb = 0xFFFFFFFF#32) →
      Completes (exec (.div ra rb) s) fun t => CeFrame [] .w32 s t ∧
        (s.r ra).toInt = (s.r rb).toInt * t.cel.toInt + t.ceh.toInt ∧ |t.ceh.toInt| < |(s.r rb).toInt| ∧
        (0 ≤ (s.r ra).toInt → 0 ≤ t.ceh.toInt) ∧ ((s.r ra).toInt ≤ 0 → t.ceh.toInt ≤ 0)) ∧
    (s.r ra = 0x80000000#32 → s.r rb = 0xFFFFFFFF#32 → Completes (exec (.div ra rb) s) (CeFrame [] .w32 s)) ∧
    (s.r rb ≠ 0#32 → Completes (exec (.divu ra rb) s) fun t => CeFrame [] .w32 s t ∧
      (s.r ra).toNat = (s.r rb).toNat * t.cel.toNat + t.ceh.toNat ∧ t.ceh.toNat < (s.r rb).toNat) ∧
    (s.r rb = 0#32 → ∀ i, i = .div ra rb ∨ i = .divu ra rb →
      ∃ h l k, exec i s = .next (takeException .cee .w32 { s with ceh := h, cel := l, freeCtr := k }))

/-- mfcel, mfceh, mfcehl complete with CEL, CEH or both in their destinations (both in one register: open, log 13);
mtcel, mtceh, mtcehl with the registers in CEL, CEH or both; nothing else changes. (rests on 44_ce_cop.md R431 to
R436) -/
def Obligations.CeMoves : Prop :=
  ∀ (s : State) (rd ra : BitVec 5),
    Completes (exec (.mfcel rd) s) (MovesTo rd .w32 s.cel s) ∧
    Completes (exec (.mfceh rd) s) (MovesTo rd .w32 s.ceh s) ∧
    Completes (exec (.mfcehl rd ra) s) (fun t =>
      (rd ≠ ra → t.r rd = s.ceh ∧ t.r ra = s.cel) ∧ ComputeFrame [rd, ra] .w32 s t ∧ SameFlags s t) ∧
    Completes (exec (.mtcel rd) s) (fun t => CeFrame [] .w32 s t ∧ t.cel = s.r rd ∧ t.ceh = s.ceh) ∧
    Completes (exec (.mtceh rd) s) (fun t => CeFrame [] .w32 s t ∧ t.cel = s.cel ∧ t.ceh = s.r rd) ∧
    Completes (exec (.mtcehl rd ra) s) (fun t => CeFrame [] .w32 s t ∧ t.cel = s.r ra ∧ t.ceh = s.r rd)

/-- Where the extension implements func5 and reports nothing, ceinst completes with what the extension answers, a
function of the instruction's fields and the two registers that the spec leaves to the implementer (log 25), in the
general registers that USD1 and USD2 name, CEH and CEL, and nowhere else. Both destinations in one register leave it
open (log 13). A report raises CeE. (rests on 44_ce_cop.md R440; 60_exceptions.md R643) -/
def Obligations.CustomEngine : Prop :=
  ∀ (s : State) (u1 ra rb u2 f : BitVec 5) (x : CeResult),
    s.cfg.ceFuncs.contains f = true → x = Config.ceOp f u1 u2 ra rb (s.r ra) (s.r rb) →
    (s.pins.ceReport = false → Completes (exec (.ceinst u1 ra rb u2 f) s) fun t =>
      t.ceh = x.ceHigh.getD s.ceh ∧ t.cel = x.ceLow.getD s.cel ∧ 
      (u1 ≠ u2 → t.r u1 = x.usd1.getD (s.r u1) ∧ t.r u2 = x.usd2.getD (s.r u2)) ∧
      (u1 = u2 → (x.usd1 = none → t.r u1 = x.usd2.getD (s.r u1)) ∧ (x.usd2 = none → t.r u1 = x.usd1.getD (s.r u1))) ∧
      CeFrame ((x.usd1.map fun _ => u1).toList ++ (x.usd2.map fun _ => u2).toList) .w32 s t) ∧
    (s.pins.ceReport = true → exec (.ceinst u1 ra rb u2 f) s = .next (takeException .cee .w32 s))

/-- For a coprocessor z = 1, 2, 3 that is usable, present and reports nothing: mtc1, mtc2, mtc3 and mtcc1, mtcc2, mtcc3
write one data or control register of it, mfc1, mfc2, mfc3 and mfcc1, mfcc2, mfcc3 read one into a general register,
cop1, cop2, cop3 perform the coprocessor's own operation on its registers (left to the implementer, log 25). A
report raises CpE with CE = z. (rests on 44_ce_cop.md R441 to R446; 44_ce_cop.md R449; 60_exceptions.md R644) -/
def Obligations.CopMoves : Prop :=
  ∀ (s : State) (z : CopNum) (rd cra crb code : BitVec 5),
    (CopReady s z →
      Completes (exec (mtcOf z rd cra) s) (fun t => CopFrame z .w32 s t ∧ t.copData z cra = s.r rd ∧
        (∀ k, k ≠ cra → t.copData z k = s.copData z k) ∧ ∀ k, t.copCtrl z k = s.copCtrl z k) ∧
      Completes (exec (mfcOf z rd cra) s) (MovesTo rd .w32 (s.copData z cra) s) ∧
      Completes (exec (mtccOf z rd cra) s) (fun t => CopFrame z .w32 s t ∧ t.copCtrl z cra = s.r rd ∧
        (∀ k, k ≠ cra → t.copCtrl z k = s.copCtrl z k) ∧ ∀ k, t.copData z k = s.copData z k) ∧
      Completes (exec (mfccOf z rd cra) s) (MovesTo rd .w32 (s.copCtrl z cra) s) ∧
      Completes (exec (copOf z rd cra crb code) s) (fun t => CopFrame z .w32 s t ∧
        t.cop z = Config.copOp z (rd ++ cra ++ crb ++ code) (s.cop z))) ∧
    (copBit z s.psr.cu = true → copBit z s.cfg.copPresent = true → copBit z s.pins.copReport = true →
      ∀ i, i = mtcOf z rd cra ∨ i = mfcOf z rd cra ∨ i = mtccOf z rd cra ∨ i = mfccOf z rd cra ∨
        i = copOf z rd cra crb code →
      exec i s = .next (takeException (.cpe (copNumber z)) .w32 s))

/-- For a coprocessor that is usable, present and reports nothing, at an allowed address, rD + 4 * Imm10: ldc1, ldc2,
ldc3 leave the word there in the data register and change no other register; stc1, stc2, stc3 store the data
register's word and change nothing else. A report of an access that passes the address checks raises CpE. What ldc
and stc do to the write buffer is in part the model's choice (log 22; R112 and R113 are silent): a dirty line lost
to a fill reaches memory after the whole buffer, which it empties; CCR.RdBpDis makes a load drain the buffer
whatever its address; a store is one word of the enabled buffer of its own, never merged; a full buffer then gives
up its oldest. (rests on 20_memory.md R110 to R113; 44_ce_cop.md R442; 44_ce_cop.md R447; 44_ce_cop.md R448;
60_exceptions.md R660) -/
def Obligations.CopMemory : Prop :=
  ∀ (s : State) (z : CopNum) (rd cra : BitVec 5) (imm : BitVec 10),
    s.copAddr rd imm = s.r rd + 4#32 * imm.signExtend 32 ∧
    (CopReady s z → LoadReady s (.at (s.copAddr rd imm) 4) → Completes (exec (ldcOf z rd cra imm) s) fun t =>
      t.copData z cra = s.word (s.copAddr rd imm) ∧ (∀ k, k ≠ cra → t.copData z k = s.copData z k) ∧
      (∀ k, t.copCtrl z k = s.copCtrl z k) ∧ (∀ y, y ≠ z → t.cop y = s.cop y) ∧ LoadFrame [] .w32 s t ∧
      SameSpecial s t ∧ t.atbit = s.atbit) ∧
    (CopReady s z → StoreReady s (.at (s.copAddr rd imm) 4) (s.copData z cra) → s.mem.wf = true →
      Completes (exec (stcOf z rd cra imm) s) fun t =>
        t.word (s.copAddr rd imm) = s.copData z cra ∧ PlainStore [] .w32 (s.copAddr rd imm) 4 s t) ∧
    (copBit z s.psr.cu = true → copBit z s.cfg.copPresent = true → copBit z s.pins.copReport = true →
      (s.loadBreak (.at (s.copAddr rd imm) 4) = none → s.addrError .load (s.copAddr rd imm) 4 = none →
        exec (ldcOf z rd cra imm) s = .next (takeException (.cpe (copNumber z)) .w32 s)) ∧
      (s.storeBreak (.at (s.copAddr rd imm) 4) (s.copData z cra) = none →
        s.addrError .store (s.copAddr rd imm) 4 = none →
        exec (stcOf z rd cra imm) s = .next (takeException (.cpe (copNumber z)) .w32 s)))

/-- In debug mode, for every instruction that makes a word access (lw and sw in the three modes, the 16-bit forms, pop!,
push!, alw, asw with ATbit = 1, lcb, lcw, lce, scb and scw where they move the whole word, ldcz, stcz of a
coprocessor that is ready), with no bus error there: a load reads DCR, IBS, DBS or any register of an implemented
breakpoint, and a store writes the writable fields of an address, mask, ASID, value or control register of one
breakpoint and leaves DCR, IBS and DBS; the base, LCR, SCR, ATbit and the 1 of asw are those of any load or store,
and nothing else changes, but that with CCR.RdBpDis set a load waits until the write buffer has drained (destination
and base in one register: open, log 13). That a load of one of these registers waits too, whatever its address, and
that a store to one takes effect at once, past the write buffer, are the model's choice (log 22; R112 and R113 are
silent). At an address in drseg that is none of these registers, in the gaps between them, above them or of a
breakpoint that is not implemented, the access stops: the spec's decision D33 (log 20). (rests on 20_memory.md R110
to R113; 60_exceptions.md R694; 60_exceptions.md R704 to R708; 60_exceptions.md R710 to R711; 43_load_store.md R363
to R366; 43_load_store.md R379 to R381; 43_load_store.md R390 to R399; 44_ce_cop.md R447 to R448; 46_16bit.md R550;
46_16bit.md R553; 46_16bit.md R560 to R562; 46_16bit.md R565) -/
def Obligations.BreakpointRegisters : Prop :=
  ∀ (s : State) (i : Instr) (x : DataAccess),
    s.dreg.dm = true → s.dataAccess i = some x → x.copReady s → x.acc.bytes = 4 →
    s.busError x.kind x.acc.addr = false →
    (∀ v, x.kind = .load → DrsegHolds s x.acc.addr v → Completes (exec i s) (LoadsWord i v s)) ∧
    (∀ u, x.kind = .store → DrsegStored s x.acc.addr x.value u → exec i s = .next (s.storeEnd i u)) ∧
    (x.acc.addr.toNat % 4 = 0 → 0xFFFF0000 ≤ x.acc.addr.toNat → (∀ v, ¬ DrsegHolds s x.acc.addr v) →
      exec i s = .fault .drsegAccess)

/-- syscall takes SYSCALL in every mode. trap<cond> takes Trap when the condition holds and changes the pc only
otherwise and for EC = 14 (the spec's decision D10); under the configured privileged reading it raises CCU where
control-register instructions may not run. (rests on 45_system.md R461; 45_system.md R462; 60_exceptions.md R639) -/
def Obligations.SyscallTrap : Prop :=
  ∀ (s : State) (spar : BitVec 15) (p : BitVec 5) (c : Cond),
    exec (.syscall spar) s = .next (takeException .syscall .w32 s) ∧
    (s.cfg.trapPrivileged = false ∨ s.crOk = true →
      (c ≠ .cnz → s.condHolds c = true → exec (.trapcond p c) s = .next (takeException .trap .w32 s)) ∧
      (c = .cnz ∨ s.condHolds c = false →
        Completes (exec (.trapcond p c) s) fun t => ComputeFrame [] .w32 s t ∧ SameFlags s t)) ∧
    (s.cfg.trapPrivileged = true → s.crOk = false →
      exec (.trapcond p c) s = .next (takeException (.ccu 0#2) .w32 s))

/-- The mode, interrupt-enable and flag stacks are pushed, kernel mode is entered with interrupts off (IEc <- 0 and the
current flags kept: the spec's decision D14), Exc_code, and only where the exception records them CE and EMA, are
written, EPC takes the pc, M the instruction's width where it is defined, the pc goes to the vector; everything else
is kept. (rests on 60_exceptions.md R631; 60_exceptions.md R650; 60_exceptions.md R651; 60_exceptions.md R655) -/
def Obligations.NormalEntry : Prop :=
  ∀ (s t : State) (x : Exc) (w : Width), s.dreg.dm = false → t = takeException x w s →
    t.psr = { s.psr with umb := s.psr.ums, ieb := s.psr.ies, ums := s.psr.umc, ies := s.psr.iec, umc := false,
                         iec := false } ∧
    t.cond.bak = s.cond.sav ∧ t.cond.sav = s.cond.cur ∧ t.cond.cur = s.cond.cur ∧
    t.ecr.excCode = x.code ∧ t.ecr.softIp = s.ecr.softIp ∧
    (∀ z, x = .ccu z ∨ x = .cpe z → t.ecr.ce = z) ∧
    ((∀ z, x ≠ .ccu z ∧ x ≠ .cpe z) → t.ecr.ce = s.ecr.ce) ∧
    (∀ a, x = .adelInstr a ∨ x = .pel a ∨ x = .adelData a ∨ x = .ades a → t.ema = a) ∧
    ((∀ a, x ≠ .adelInstr a ∧ x ≠ .pel a ∧ x ≠ .adelData a ∧ x ≠ .ades a) → t.ema = s.ema) ∧
    t.epc.addr = s.pc.extractLsb' 1 31 ∧
    ((∀ a n, x ≠ .adelInstr a ∧ x ≠ .buselInstr ∧ x ≠ .pel a ∧ x ≠ .nmi ∧ x ≠ .interrupt n ∧ x ≠ .swi) →
      (t.epc.m = true ↔ w = .w16)) ∧
    (∀ n, x = .interrupt n → t.pc = (s.excpVec.base ++ 0x200#16) +
      BitVec.ofNat 32 ((if s.excpVec.vo then 16 else 4) * n.toNat)) ∧
    ((∀ n, x ≠ .interrupt n) → t.pc = s.excpVec.base ++ 0x200#16) ∧
    t.sleeping = false ∧ t.dreg = s.dreg ∧ t.depc = s.depc ∧ ExceptionFrame s t

/-- Outside debug mode sdbbp and sdbbp! enter it with cause DBP; in it they change the pc only. A debug exception sets
DM, one cause bit and DEPC and leaves PSR, Condition, ECR, EPC and EMA; a normal exception in debug mode clears the
cause bits and writes DExcCode and DEPC only (the spec's decision D34). (rests on 45_system.md R465; 46_16bit.md
R570; 60_exceptions.md R680; 60_exceptions.md R682) -/
def Obligations.DebugEntryReentry : Prop :=
  ∀ (s : State) (k : BitVec 5) (y : DebugExc) (x : Exc) (w : Width),
    (s.dreg.dm = false → exec (.sdbbp k) s = .next (debugEnter .dbp .w32 s) ∧
      exec (.sdbbp16 k) s = .next (debugEnter .dbp .w16 s)) ∧
    (s.dreg.dm = true →
      Completes (exec (.sdbbp k) s) (fun t => ComputeFrame [] .w32 s t ∧ SameFlags s t) ∧
      Completes (exec (.sdbbp16 k) s) (fun t => ComputeFrame [] .w16 s t ∧ SameFlags s t)) ∧
    (∀ t, t = debugEnter y w s →
      t.depc.addr = s.pc.extractLsb' 1 31 ∧
      (y = .dbp ∨ y = .ddbla ∨ y = .ddbs → (t.depc.m = true ↔ w = .w16)) ∧
      t.dreg = { s.dreg with
        dm := true
        cause := ⟨decide (y = .ddblv), decide (y = .dint), decide (y = .dib), decide (y = .ddbs), decide (y = .ddbla),
          decide (y = .dbp), decide (y = .dss)⟩ } ∧
      t.sleeping = false ∧ t.stepped = false ∧ t.ddblvPending = false ∧ t.psr = s.psr ∧ t.cond = s.cond ∧
      t.ecr = s.ecr ∧ t.epc = s.epc ∧ t.ema = s.ema ∧ ExceptionFrame s t) ∧
    (∀ t, s.dreg.dm = true → t = takeException x w s →
      t.depc.addr = s.pc.extractLsb' 1 31 ∧
      t.dreg = { s.dreg with cause := ⟨false, false, false, false, false, false, false⟩, dExcCode := x.code } ∧
      t.psr = s.psr ∧ t.cond = s.cond ∧ t.ecr = s.ecr ∧ t.epc = s.epc ∧ t.ema = s.ema ∧ ExceptionFrame s t)

/-- With the probe enabled and IceDis = 0 the vector is 0xFF000000, otherwise the exception base plus 0x1FC, for every
debug exception and every re-entry; with the defaults it is 0x9F0001FC. (formalises 60_exceptions.md R681) -/
def Obligations.DebugVector : Prop :=
  (∀ (s : State) (y : DebugExc) (x : Exc) (w : Width) (t : State),
    t = debugEnter y w s ∨ (s.dreg.dm = true ∧ t = takeException x w s) →
    (s.cfg.probeEn = false → t.pc = s.excpVec.base ++ 0x1FC#16) ∧
    (s.cfg.probeEn = true → s.dreg.iceDis = true → t.pc = s.excpVec.base ++ 0x1FC#16) ∧
    (s.cfg.probeEn = true → s.dreg.iceDis = false → t.pc = 0xFF000000#32)) ∧
  (debugEnter .dbp .w32 State.reset).pc = 0x9F0001FC#32

/-- drte, where control-register instructions may run, goes to DEPC with bit 0 clear and clears DM, and changes nothing
else: no stack, no cause bit, no DExcCode. A step that begins in debug mode without the reset input and ends outside
it has executed drte. rte in debug mode pops the stacks, goes to EPC and leaves DM. (formalises 60_exceptions.md
R689) -/
def Obligations.LeavingDebugMode : Prop :=
  (∀ s : State, s.crOk = true → Completes (exec .drte s) fun t =>
    t.pc = s.depc.addr ++ 0#1 ∧ t.dreg = { s.dreg with dm := false } ∧ t.userMode = s.psr.umc ∧ SameRegs [] s t ∧
    SameFlags s t ∧ SameMem s t ∧ SameBuffer s t ∧ SameCe s t ∧ SameSpecial s t ∧ SameControl s t ∧ t.depc = s.depc ∧
    t.dsave = s.dsave ∧ t.ibrk = s.ibrk ∧ t.dbrk = s.dbrk ∧ SameCops s t ∧ SameHidden s t ∧ t.atbit = s.atbit) ∧
  (∀ s t : State, s.dreg.dm = true → s.pins.reset = false → step s = .next t → t.dreg.dm = false →
    ∃ c pc pce, selectCode s.pcWord s.pc s.flags.t = .run c pc pce ∧ decode c = .ok .drte ∧
      t.pc = s.depc.addr ++ 0#1) ∧
  (∀ s : State, s.dreg.dm = true → Completes (exec .rte s) fun t =>
    t.dreg = s.dreg ∧ t.pc = s.epc.addr ++ 0#1 ∧ t.psr = s.psr.pop ∧ t.cond = s.cond.pop)

/-- rte, where control-register instructions may run, takes mode, interrupt enable and flags from the saved level and
that from the backup level, clears ATbit and goes to EPC with bit 0 clear; nothing else changes. After any normal
entry from outside debug mode it restores the current and saved levels and the pc (bit 0 clear). The pop is read as
the spec's decision D14 reads it. (rests on 45_system.md R470; 60_exceptions.md R651; 60_exceptions.md R653) -/
def Obligations.ReturnFromException : Prop :=
  (∀ s : State, s.crOk = true → Completes (exec .rte s) fun t =>
    t.psr = { s.psr with umc := s.psr.ums, iec := s.psr.ies, ums := s.psr.umb, ies := s.psr.ieb } ∧
    t.cond.cur = s.cond.sav ∧ t.cond.sav = s.cond.bak ∧ t.cond.bak = s.cond.bak ∧ t.atbit = false ∧
    t.pc = s.epc.addr ++ 0#1 ∧ t.ecr = s.ecr ∧ t.excpVec = s.excpVec ∧ t.ccr = s.ccr ∧ t.epc = s.epc ∧
    t.ema = s.ema ∧ t.limpfn = s.limpfn ∧ t.ldmpfn = s.ldmpfn ∧ SameRegs [] s t ∧ SameMem s t ∧ SameBuffer s t ∧ SameCe s t ∧
    SameSpecial s t ∧ SameDebug s t ∧ SameCops s t ∧ SameHidden s t ∧ t.ddblvPending = s.ddblvPending) ∧
  (∀ (s : State) (x : Exc) (w : Width), s.dreg.dm = false →
    ∃ t, exec .rte (takeException x w s) = .next t ∧ t.psr.umc = s.psr.umc ∧ t.psr.iec = s.psr.iec ∧
      t.psr.ums = s.psr.ums ∧ t.psr.ies = s.psr.ies ∧ t.cond.cur = s.cond.cur ∧ t.cond.sav = s.cond.sav ∧
      t.pc = s.pc &&& 0xFFFFFFFE#32 ∧ SameRegs [] s t ∧ SameMem s t ∧ SameBuffer s t)

/-- Where control-register instructions may run: mfcr of each named register leaves its word, laid out by the field
tables, in the destination; mtcr writes exactly the writable bits of the register and leaves its other bits, every
other control register and everything else. LIMPFN and LDMPFN hold an open value after a write (log 14), Prev keeps
its own. That mtcr changes exactly the writable bits and raises nothing is the spec's decision D11, that cr29 to
cr31 are reachable in kernel mode D21 (log 51). DREG bit 24 as a pending bus error in debug mode, and bit 25 as 0,
are the spec's decision D34 (log 39). The encoding bit that tells the two apart is general knowledge in the spec
(log 36). (rests on 45_system.md R480; 45_system.md R481; 10_state.md R31; 10_state.md R52; 10_state.md R33;
10_state.md R38; 10_state.md R40; 10_state.md R42; 10_state.md R43; 10_state.md R45 to R51; 60_exceptions.md R702) -/
def Obligations.ControlRegisters : Prop :=
  ∀ (s : State) (rd n : BitVec 5), s.crOk = true →
    s.readCr 0 = some (s.psr.cu ++ BitVec.ofBool s.psr.cra ++ 0#4 ++ s.psr.im ++ BitVec.ofBool s.cfg.bigEndian ++
      0#9 ++ BitVec.ofBool s.psr.umb ++ BitVec.ofBool s.psr.ieb ++ BitVec.ofBool s.psr.ums ++
      BitVec.ofBool s.psr.ies ++ BitVec.ofBool s.psr.umc ++ BitVec.ofBool s.psr.iec) ∧
    (∃ v, s.readCr 1 = some v ∧ v &&& 0xFFFF8000#32 = 0#32 ∧
      v.getLsbD 4 = s.cond.cur.t ∧ v.getLsbD 3 = s.cond.cur.n ∧ v.getLsbD 2 = s.cond.cur.z ∧
      v.getLsbD 1 = s.cond.cur.c ∧ v.getLsbD 0 = s.cond.cur.v ∧
      v.getLsbD 9 = s.cond.sav.t ∧ v.getLsbD 8 = s.cond.sav.n ∧ v.getLsbD 7 = s.cond.sav.z ∧
      v.getLsbD 6 = s.cond.sav.c ∧ v.getLsbD 5 = s.cond.sav.v ∧
      v.getLsbD 14 = s.cond.bak.t ∧ v.getLsbD 13 = s.cond.bak.n ∧ v.getLsbD 12 = s.cond.bak.z ∧
      v.getLsbD 11 = s.cond.bak.c ∧ v.getLsbD 10 = s.cond.bak.v) ∧
    s.readCr 2 = some (0#8 ++ s.pins.irq ++ s.ecr.softIp ++ 0#8 ++ s.ecr.ce ++ 0#1 ++ s.ecr.excCode) ∧
    s.readCr 3 = some (s.excpVec.base ++ 0#15 ++ BitVec.ofBool s.excpVec.vo) ∧
    s.readCr 4 = some (0#22 ++ BitVec.ofBool s.ccr.dpfb ++ BitVec.ofBool s.ccr.ipfb ++ BitVec.ofBool s.ccr.wback ++
      BitVec.ofBool s.ccr.rdBpDis ++ BitVec.ofBool s.ccr.nopMode ++ BitVec.ofBool s.ccr.bten ++
      BitVec.ofBool s.ccr.ldm ++ BitVec.ofBool s.ccr.lim ++ 0#1 ++ BitVec.ofBool s.ccr.wb) ∧
    s.readCr 5 = some (s.epc.addr ++ BitVec.ofBool s.epc.m) ∧ s.readCr 6 = some s.ema ∧
    s.readCr 15 = some s.limpfn ∧ s.readCr 16 = some s.ldmpfn ∧ (∃ v, s.readCr 18 = some v ∧ v.toNat < 2 ^ 24) ∧
    (∃ v, s.readCr 29 = some v ∧ v &&& 0xC2FFC080#32 = 0#32 ∧ v.getLsbD 29 = s.dreg.iceDis ∧
      v.getLsbD 28 = s.dreg.initOk ∧ v.getLsbD 27 = s.cfg.probeEn ∧ v.getLsbD 26 = s.dreg.dm ∧
      v.getLsbD 24 = (s.dreg.dm && s.busErrPending) ∧ v.extractLsb' 9 5 = s.dreg.dExcCode ∧
      v.getLsbD 8 = s.dreg.ssEn ∧ v.getLsbD 6 = s.dreg.cause.ddblv ∧ v.getLsbD 5 = s.dreg.cause.dint ∧
      v.getLsbD 4 = s.dreg.cause.dib ∧ v.getLsbD 3 = s.dreg.cause.ddbs ∧ v.getLsbD 2 = s.dreg.cause.ddbla ∧
      v.getLsbD 1 = s.dreg.cause.dbp ∧ v.getLsbD 0 = s.dreg.cause.dss) ∧
    s.readCr 30 = some (s.depc.addr ++ BitVec.ofBool s.depc.m) ∧ s.readCr 31 = some s.dsave ∧
    (∀ v, s.readCr n = some v → Completes (exec (.mfcr rd n) s) (MovesTo rd .w32 v s)) ∧
    (∀ m : Word, (n, m) ∈ [(0#5, 0xF0FF003F#32), (1#5, 0x7FFF#32), (2#5, 0x30000#32), (3#5, 0xFFFF0001#32),
        (4#5, 0x7C#32), (5#5, 0xFFFFFFFE#32), (6#5, 0xFFFFFFFF#32), (18#5, 0#32), (29#5, 0x30000100#32),
        (30#5, 0xFFFFFFFE#32), (31#5, 0xFFFFFFFF#32)] →
      ∀ old, s.readCr n = some old → Completes (exec (.mtcr rd n) s) fun t =>
        t.readCr n = some ((s.r rd &&& m) ||| (old &&& ~~~m)) ∧ (∀ k, k ≠ n → t.readCr k = s.readCr k) ∧
        t.pc = s.pc + 4#32 ∧ SameRegs [] s t ∧ SameMem s t ∧ SameBuffer s t ∧ SameCe s t ∧ SameSpecial s t ∧ SameCops s t ∧
        SameHidden s t ∧ t.atbit = s.atbit ∧ t.ibrk = s.ibrk ∧ t.dbrk = s.dbrk) ∧
    (n = 15#5 ∨ n = 16#5 → Completes (exec (.mtcr rd n) s) fun t =>
      (∀ k, k ≠ n → t.readCr k = s.readCr k) ∧ t.pc = s.pc + 4#32 ∧ SameRegs [] s t ∧ SameMem s t ∧ SameBuffer s t ∧ SameCe s t ∧
        SameSpecial s t ∧ SameCops s t ∧ SameHidden s t)

/-- mfcr, mtcr, rte, drte, sleep and the TLB slots in user mode with CRA = 0 raise CCU with CE = 00; every instruction
of coprocessor z with its CU bit clear raises CCU with CE = z, in every mode. Outside debug mode Exc_code is 8, CE
the number, both stacks are pushed and EPC holds the instruction; in debug mode the exception re-enters it. That the
push clears IEc is the spec's decision D14 (log 31), the re-entry D34 (log 43). (rests on 60_exceptions.md R640;
60_exceptions.md R650; 60_exceptions.md R651; 60_exceptions.md R682) -/
def Obligations.Unusable : Prop :=
  (∀ (s : State) (i : Instr), CrInstr i → s.dreg.dm = false → s.psr.umc = true → s.psr.cra = false →
    Completes (exec i s) fun t => t = takeException (.ccu 0#2) .w32 s ∧ t.ecr.excCode = 8#5 ∧ t.ecr.ce = 0#2 ∧
      t.psr = s.psr.push ∧ t.cond = s.cond.push ∧ t.epc = ⟨s.pc.extractLsb' 1 31, false⟩ ∧ SameRegs [] s t) ∧
  (∀ (s : State) (i : Instr) (z : CopNum), CopInstr z i → copBit z s.psr.cu = false →
    Completes (exec i s) fun t => t = takeException (.ccu (copNumber z)) .w32 s ∧
      (s.dreg.dm = false → t.ecr.excCode = 8#5 ∧ t.ecr.ce = copNumber z ∧ t.psr = s.psr.push ∧
        t.cond = s.cond.push ∧ t.epc = ⟨s.pc.extractLsb' 1 31, false⟩) ∧ SameRegs [] s t) ∧
  (∀ (s : State) (i : Instr), CrInstr i → s.dreg.dm = true ∨ s.psr.umc = false ∨ s.psr.cra = true →
    s.raised = false → ∀ t, exec i s = .next t → t ≠ takeException (.ccu 0#2) .w32 s)

/-- The TLB slots stlb, mftlb, mtptlb, mtrtlb, an absent coprocessor's instructions, a special register 3 to 31, a
control register without a name, an undefined cache operation and a ceinst that no extension implements raise RI.
R125 states it for the undefined cache operation and R440 for ceinst; for all seven instructions of an absent
coprocessor it is the spec's decision D19 (log 54); for the TLB slots, the special and the control registers RI is
the model's choice among what the spec allows (log 17). (rests on 30_encoding.md R200; 44_ce_cop.md R440;
44_ce_cop.md R442; 41_shift_ext_move.md R318; 10_state.md R32; 20_memory.md R125) -/
def Obligations.ReservedInstructions : Prop :=
  ∀ s : State,
    (∀ i, TlbSlot i → s.crOk = true → exec i s = .next (takeException .ri .w32 s)) ∧
    (∀ i z, CopInstr z i → copBit z s.psr.cu = true → copBit z s.cfg.copPresent = false →
      exec i s = .next (takeException .ri .w32 s)) ∧
    (∀ r n : BitVec 5, 3 ≤ n.toNat → exec (.mfsr r n) s = .next (takeException .ri .w32 s) ∧
      exec (.mtsr r n) s = .next (takeException .ri .w32 s)) ∧
    (∀ r n : BitVec 5, s.crOk = true → n.toNat ∉ [0, 1, 2, 3, 4, 5, 6, 15, 16, 18, 29, 30, 31] →
      exec (.mfcr r n) s = .next (takeException .ri .w32 s) ∧ exec (.mtcr r n) s = .next (takeException .ri .w32 s)) ∧
    (∀ (op ra : BitVec 5) (imm : BitVec 15),
      op.toNat ∈ [0x05, 0x06, 0x07, 0x0F, 0x12, 0x13, 0x14, 0x15, 0x16, 0x17, 0x19] →
      exec (.cache op ra imm) s = .next (takeException .ri .w32 s)) ∧
    (∀ u1 ra rb u2 f : BitVec 5, f ∉ s.cfg.ceFuncs →
      exec (.ceinst u1 ra rb u2 f) s = .next (takeException .ri .w32 s))

/-- sleep, where control-register instructions may run, completes with the core asleep and the pc at the next
instruction. A sleeping core without reset, NMI, DINT outside debug mode or an accepted interrupt only uses up its
inputs and remembers an NMI edge. Which requests wake it is the spec's decision D18; that a sleeping core in debug
mode remembers an NMI edge is D31 (log 42). (rests on 45_system.md R476; 60_exceptions.md R670) -/
def Obligations.SleepAndWake : Prop :=
  ∀ s : State,
    (s.crOk = true → Completes (exec .sleep s) fun t => t.sleeping = true ∧ t.pc = s.pc + 4#32 ∧ SameRegs [] s t ∧
      SameFlags s t ∧ SameMem s t ∧ SameBuffer s t ∧ SameCe s t ∧ SameSpecial s t ∧ SameControl s t ∧ SameDebug s t ∧ SameCops s t ∧
      t.atbit = s.atbit ∧ t.nmiPending = s.nmiPending ∧ t.inputs = s.inputs) ∧
    (s.sleeping = true → s.pins.reset = false →
      (s.dreg.dm = true ∨ (s.pins.dint = false ∧ s.nmiPending = false ∧ s.pins.nmi = false ∧
        ¬ (s.psr.iec = true ∧ s.psr.im.toNat / 4 < s.pins.irq.toNat))) →
      step s = .next { s with
        nmiPending := s.nmiPending || s.pins.nmi
        raised := false
        pce := false
        inputs := s.inputs.tail })

/-- A defined operation whose checks pass completes, in every mode: no register, flag, special or control register but
CCR changes; 11, 1B, 1C, 1D toggle IPFB, WB, DPFB, W-Back. From a state that meets the invariant: a prefetch (00,
08) fills, and 01, 09 fill and lock, the line of the address; 02, 0A, 10, 18 invalidate the line or the cache and
the next access reads memory; after 0D, 0E on a line that hits, and 1E, 1F, memory holds what the D-cache held and
every buffered store, the lines are clean or invalid, and 0D leaves the MRU bit at the line's way, 0E and 1F at the
other (1F: for a line alone in its set); after 1A, and after 1B that disables the buffer, memory holds every
buffered store; a dirty line that 08 or 09 loses goes to memory after them (log 22); every byte a load sees is kept,
but by 0A and 18, which lose dirty data only; else caches, buffer and memory stay. A prefetch or fill to a forbidden
address raises AdEL-data, a write-back AdES, a prefetch or fill with a bus error at its address BusEL-data: D25, as
is that one the controller ignores, at an uncacheable address, changes nothing and raises no bus error (log 48); a
refill never fails (log 56). Which way a prefetch fills, that a prefetch that hits keeps way and lock, and that an
asserted MRU bit means way 0, so that after 10 and 18 the next fill of a set takes way 0, are the model's (log 23).
That 02 and 0A raise no address error at a forbidden address is the model's choice (log 61: R128, where R485 says
operations that take a VA). A local memory's operation is a stop of its own (log 21). (rests on 45_system.md R485;
20_memory.md R112; 20_memory.md R114; 20_memory.md R121; 20_memory.md R125 to R129; 20_memory.md R131) -/
def Obligations.CacheInstruction : Prop :=
  ∀ (s : State) (op ra : BitVec 5) (imm : BitVec 15) (va : Word),
    va = s.offsetAddr ra imm → cacheOpDefined op = true →
    (s.forbidden va = true → op.toNat ∈ [0x00, 0x01, 0x03, 0x04, 0x08, 0x09, 0x0B] →
      exec (.cache op ra imm) s = .next (takeException (.adelData va) .w32 s)) ∧
    (s.forbidden va = true → op.toNat ∈ [0x0D, 0x0E] →
      exec (.cache op ra imm) s = .next (takeException (.ades va) .w32 s)) ∧
    (s.forbidden va = false → s.busError .load va = true →
      (op.toNat ∈ [0x03, 0x04, 0x0B] ∨ op.toNat ∈ [0x00, 0x01, 0x08, 0x09] ∧ s.cacheable va = true) →
      exec (.cache op ra imm) s = .next (takeException .buselData .w32 s)) ∧
    ((s.forbidden va = false ∨ op.toNat ∉ [0x00, 0x01, 0x03, 0x04, 0x08, 0x09, 0x0B, 0x0D, 0x0E]) →
      (s.busError .load va = false ∨ op.toNat ∉ [0x00, 0x01, 0x03, 0x04, 0x08, 0x09, 0x0B] ∨
        op.toNat ∈ [0x00, 0x01, 0x08, 0x09] ∧ s.cacheable va = false) →
      (s.cfg.limPresent = false ∨ op.toNat ∉ [0x03, 0x04]) → (s.cfg.ldmPresent = false ∨ op.toNat ∉ [0x0B, 0x0C]) →
      Completes (exec (.cache op ra imm) s) fun t =>
        t.pc = s.pc + 4#32 ∧ SameRegs [] s t ∧ SameFlags s t ∧ SameCe s t ∧ SameSpecial s t ∧ SameDebug s t ∧
        SameCops s t ∧ t.psr = s.psr ∧ t.ecr = s.ecr ∧ t.excpVec = s.excpVec ∧ t.epc = s.epc ∧ t.ema = s.ema ∧
        t.limpfn = s.limpfn ∧ t.ldmpfn = s.ldmpfn ∧ t.atbit = s.atbit ∧ t.cfg = s.cfg ∧ t.sleeping = s.sleeping ∧
        t.ccr = { s.ccr with
          ipfb := s.ccr.ipfb != decide (op = 0x11#5)
          wb := s.ccr.wb != decide (op = 0x1B#5)
          dpfb := s.ccr.dpfb != decide (op = 0x1C#5)
          wback := s.ccr.wback != decide (op = 0x1D#5) } ∧
        (s.Wf = true → (op.toNat ∉ [0x0A, 0x18] ∨ ∀ l ∈ s.dcache.lines, l.dirty = false) → SameMem s t) ∧
        (op.toNat ∈ [0x00, 0x01, 0x08, 0x09, 0x0D, 0x0E] → s.cacheable va = false → SameArrays s t) ∧
        (s.Wf = true → (op.toNat ∉ [0x00, 0x01, 0x08, 0x09, 0x0D, 0x0E] ∨ s.cacheable va = true) →
          CacheEffect op.toNat va s t)) ∧
    (s.forbidden va = false → s.busError .load va = false →
      (s.cfg.limPresent = true ∧ op.toNat ∈ [0x03, 0x04] ∨ s.cfg.ldmPresent = true ∧ op.toNat ∈ [0x0B, 0x0C]) →
      exec (.cache op ra imm) s = .refused .localMemory)

/-- An awake core outside debug mode takes at the boundary the first of: single step, debug interrupt, pending value
breakpoint, remembered NMI edge (which it forgets), interrupt with IEc = 1 and level above IM[7:2], matching enabled
instruction breakpoint; the instruction does not execute. In debug mode none is taken and an NMI stays remembered
(the spec's decision D31, log 42). An instruction breakpoint compares the address of the half that executes and
saves the step's pc (log 16); where no half executes, or the fetch fails, it compares pc (log 58). (rests on
60_exceptions.md R632; 60_exceptions.md R633; 60_exceptions.md R671; 60_exceptions.md R672; 60_exceptions.md R683;
60_exceptions.md R686; 60_exceptions.md R687; 60_exceptions.md R709) -/
def Obligations.BoundaryEvents : Prop :=
  ∀ s : State, Awake s →
    (s.dreg.dm = true → s.beginStep.event = none ∧ s.beginStep.nmiPending = (s.nmiPending || s.pins.nmi)) ∧
    (s.dreg.dm = false →
      (s.dreg.ssEn = true ∧ s.stepped = true →
        step s = .next (s.beginStep.endStep (debugEnter .dss .w32 s.beginStep))) ∧
      (¬ (s.dreg.ssEn = true ∧ s.stepped = true) →
        (s.pins.dint = true → step s = .next (s.beginStep.endStep (debugEnter .dint .w32 s.beginStep))) ∧
        (s.pins.dint = false →
          (s.ddblvPending = true → step s = .next (s.beginStep.endStep (debugEnter .ddblv .w32 s.beginStep))) ∧
          (s.ddblvPending = false →
            (s.nmiPending = true ∨ s.pins.nmi = true →
              step s = .next (s.beginStep.endStep
                (takeException .nmi .w32 { s.beginStep with nmiPending := false }))) ∧
            (s.nmiPending = false → s.pins.nmi = false →
              (s.psr.iec = true ∧ s.psr.im.toNat / 4 < s.pins.irq.toNat →
                step s = .next (s.beginStep.endStep (takeException (.interrupt s.pins.irq) .w32 s.beginStep))) ∧
              (¬ (s.psr.iec = true ∧ s.psr.im.toNat / 4 < s.pins.irq.toNat) → s.sleeping = false →
                (InstrBreakAt s s.breakPc →
                  step s = .next (s.beginStep.endStep (debugEnter .dib .w32 s.beginStep))) ∧
                (¬ InstrBreakAt s s.breakPc → Fetches s)))))))

/-- A step that begins in user mode with CRA = 0 and without the reset input either takes no exception and leaves PSR,
ECR, EXCPVec, EPC, EMA, LIMPFN, LDMPFN, DREG, DEPC, DSAVE, the breakpoint unit and the saved and backup levels of
Condition unchanged, and CCR too unless the instruction is a cache toggle, which inverts its bit only; or takes a
normal exception to its vector with PSR and Condition pushed (IEc cleared: the spec's decision D14, log 31) and CCR
kept; or enters debug mode at the debug vector with PSR, Condition and CCR unchanged. (rests on 60_exceptions.md
R690; 60_exceptions.md R691; 60_exceptions.md R640; 60_exceptions.md R651; 20_memory.md R126) -/
def Obligations.UserPrivilege : Prop :=
  ∀ s t : State, s.userMode = true → s.psr.cra = false → s.pins.reset = false → step s = .next t →
    (t.psr = s.psr ∧ t.dreg = s.dreg ∧ t.ecr = s.ecr ∧ t.excpVec = s.excpVec ∧ t.epc = s.epc ∧ t.ema = s.ema ∧
      t.limpfn = s.limpfn ∧ t.ldmpfn = s.ldmpfn ∧ t.depc = s.depc ∧ t.dsave = s.dsave ∧ t.ibrk = s.ibrk ∧
      t.dbrk = s.dbrk ∧ SameSaved s t ∧
      (t.ccr = s.ccr ∨ ∃ c pc pce op ra imm, selectCode s.pcWord s.pc s.flags.t = .run c pc pce ∧
        decode c = .ok (.cache op ra imm) ∧
        (op = 0x11#5 ∧ t.ccr = { s.ccr with ipfb := !s.ccr.ipfb } ∨ op = 0x1B#5 ∧ t.ccr = { s.ccr with wb := !s.ccr.wb } ∨
          op = 0x1C#5 ∧ t.ccr = { s.ccr with dpfb := !s.ccr.dpfb } ∨
          op = 0x1D#5 ∧ t.ccr = { s.ccr with wback := !s.ccr.wback }))) ∨
    (∃ x : Exc, t.psr = s.psr.push ∧ t.dreg = s.dreg ∧ t.pc = s.vector x ∧ t.ecr.excCode = x.code ∧
      t.excpVec = s.excpVec ∧ t.limpfn = s.limpfn ∧ t.ldmpfn = s.ldmpfn ∧ t.dsave = s.dsave ∧ t.depc = s.depc ∧
      t.ibrk = s.ibrk ∧ t.dbrk = s.dbrk ∧ t.cond = s.cond.push ∧ t.ccr = s.ccr) ∨
    (∃ y : DebugExc, t.psr = s.psr ∧ t.dreg.dm = true ∧ t.dreg.cause = y.cause ∧ t.pc = s.debugVector ∧
      t.ecr = s.ecr ∧ t.excpVec = s.excpVec ∧ t.epc = s.epc ∧ t.ema = s.ema ∧ t.limpfn = s.limpfn ∧
      t.ldmpfn = s.ldmpfn ∧ t.dsave = s.dsave ∧ t.ibrk = s.ibrk ∧ t.dbrk = s.dbrk ∧ t.cond = s.cond ∧
      t.ccr = s.ccr)

end
end

