-- ==== Sys2Proof/Laws/Memory.lean ====
section
/-! SUPPORT. What the memory operations do: reading after writing, and the canonical form, which every operation keeps. -/
namespace Sys2Proof.Machine

theorem Memory.wfAbove_cell {a b : Nat} {v : Byte} {m : Memory} (h : a < b) (hm : Memory.wfAbove b m = true) :
    Memory.wfAbove a (Memory.cell b v m) = true := by
  unfold Memory.cell
  split
  · cases m with
    | nil => rfl
    | cons c m =>
      obtain ⟨c, w⟩ := c
      simp only [Memory.wfAbove, Bool.and_eq_true, decide_eq_true_eq] at hm ⊢
      exact ⟨⟨by omega, hm.1.2⟩, hm.2⟩
  · simp_all [Memory.wfAbove]

theorem Memory.wfAbove_mono {a b : Nat} {m : Memory} (h : a ≤ b) (hm : Memory.wfAbove b m = true) :
    Memory.wfAbove a m = true := by
  cases m with
  | nil => rfl
  | cons c m =>
    obtain ⟨c, w⟩ := c
    simp only [Memory.wfAbove, Bool.and_eq_true, decide_eq_true_eq] at hm ⊢
    exact ⟨⟨by omega, hm.1.2⟩, hm.2⟩

theorem Memory.get_below {a c : Nat} {m : Memory} (hm : Memory.wfAbove a m = true) (h : c ≤ a) :
    m.get c = Memory.unlisted := by
  induction m generalizing a with
  | nil => rfl
  | cons d m ih =>
    obtain ⟨d, w⟩ := d
    simp only [Memory.wfAbove, Bool.and_eq_true, decide_eq_true_eq] at hm
    have : c ≠ d := by omega
    simp only [Memory.get, if_neg this]
    exact ih hm.2 (by omega)

theorem Memory.get_cell {a b : Nat} {v : Byte} {m : Memory} (hm : Memory.wfAbove a m = true) :
    (Memory.cell a v m).get b = if b = a then v else m.get b := by
  unfold Memory.cell
  split
  · next hv =>
    split
    · next hb => rw [Memory.get_below hm (by omega), hv]
    · rfl
  · rfl

theorem Memory.wfAbove_set {a b : Nat} {v : Byte} {m : Memory} (hm : Memory.wfAbove a m = true) (h : a < b) :
    Memory.wfAbove a (m.set b v) = true := by
  induction m generalizing a with
  | nil => exact Memory.wfAbove_cell h rfl
  | cons d m ih =>
    obtain ⟨d, w⟩ := d
    have hm' := hm
    simp only [Memory.wfAbove, Bool.and_eq_true, decide_eq_true_eq] at hm
    unfold Memory.set
    split
    · refine Memory.wfAbove_cell h ?_
      simp only [Memory.wfAbove, Bool.and_eq_true, decide_eq_true_eq]
      exact ⟨⟨by omega, hm.1.2⟩, hm.2⟩
    · split
      · next hbd => subst hbd; exact Memory.wfAbove_cell h hm.2
      · simp only [Memory.wfAbove, Bool.and_eq_true, decide_eq_true_eq]
        exact ⟨⟨hm.1.1, hm.1.2⟩, ih hm.2 (by omega)⟩

theorem Memory.get_set_above {a b c : Nat} {v : Byte} {m : Memory} (hm : Memory.wfAbove a m = true) (h : a < b) :
    (m.set b v).get c = if c = b then v else m.get c := by
  induction m generalizing a with
  | nil => exact Memory.get_cell (m := []) rfl
  | cons d m ih =>
    obtain ⟨d, w⟩ := d
    have hm' := hm
    simp only [Memory.wfAbove, Bool.and_eq_true, decide_eq_true_eq] at hm
    unfold Memory.set
    split
    · refine Memory.get_cell ?_
      simp only [Memory.wfAbove, Bool.and_eq_true, decide_eq_true_eq]
      exact ⟨⟨by omega, hm.1.2⟩, hm.2⟩
    · split
      · next hbd =>
        subst hbd
        rw [Memory.get_cell hm.2]
        simp only [Memory.get]
        split <;> rfl
      · next hbd =>
        simp only [Memory.get, ih hm.2 (by omega : d < b)]
        split
        · next hc => subst hc; simp [Ne.symm hbd]
        · rfl

theorem Memory.wf_iff {m : Memory} : m.wf = true ↔
    m = [] ∨ ∃ b v r, m = (b, v) :: r ∧ v ≠ Memory.unlisted ∧ Memory.wfAbove b r = true := by
  cases m with
  | nil => simp [Memory.wf]
  | cons c r => obtain ⟨b, v⟩ := c; simp [Memory.wf]

theorem Memory.wf_of_above {a : Nat} {m : Memory} (h : Memory.wfAbove a m = true) : m.wf = true := by
  cases m with
  | nil => rfl
  | cons c r =>
    obtain ⟨b, v⟩ := c
    simp only [Memory.wfAbove, Bool.and_eq_true, decide_eq_true_eq] at h
    simp only [Memory.wf, Bool.and_eq_true, decide_eq_true_eq]
    exact ⟨h.1.2, h.2⟩

theorem Memory.wf_cell {b : Nat} {v : Byte} {m : Memory} (hm : Memory.wfAbove b m = true) :
    (Memory.cell b v m).wf = true := by
  unfold Memory.cell
  split
  · exact Memory.wf_of_above hm
  · simp_all [Memory.wf]

/-- A write keeps the canonical form. -/
theorem Memory.wf_set {m : Memory} (hm : m.wf = true) (b : Nat) (v : Byte) : (m.set b v).wf = true := by
  cases m with
  | nil => exact Memory.wf_cell (m := []) rfl
  | cons c r =>
    obtain ⟨d, w⟩ := c
    simp only [Memory.wf, Bool.and_eq_true, decide_eq_true_eq] at hm
    unfold Memory.set
    split
    · exact Memory.wf_cell (by simp_all [Memory.wfAbove])
    · split
      · next hb => subst hb; exact Memory.wf_cell hm.2
      · simp only [Memory.wf, Bool.and_eq_true, decide_eq_true_eq]
        exact ⟨hm.1, Memory.wfAbove_set hm.2 (by omega)⟩

/-- Reading after a write: the value written at its address, the old one elsewhere. -/
theorem Memory.get_set {m : Memory} (hm : m.wf = true) (b c : Nat) (v : Byte) :
    (m.set b v).get c = if c = b then v else m.get c := by
  cases m with
  | nil => exact Memory.get_cell (m := []) rfl
  | cons e r =>
    obtain ⟨d, w⟩ := e
    simp only [Memory.wf, Bool.and_eq_true, decide_eq_true_eq] at hm
    unfold Memory.set
    split
    · exact Memory.get_cell (by simp_all [Memory.wfAbove])
    · split
      · next hb =>
        subst hb
        rw [Memory.get_cell hm.2]
        simp only [Memory.get]
        split <;> rfl
      · next hb =>
        simp only [Memory.get, Memory.get_set_above hm.2 (by omega : d < b)]
        split
        · next hc => subst hc; simp [Ne.symm hb]
        · rfl

theorem Memory.wf_setAll {m : Memory} (hm : m.wf = true) (a : Nat) (vs : List Byte) : (m.setAll a vs).wf = true := by
  induction vs generalizing m a with
  | nil => exact hm
  | cons v vs ih => exact ih (Memory.wf_set hm a v) (a + 1)

theorem Memory.get_setAll {m : Memory} (hm : m.wf = true) (a c : Nat) (vs : List Byte) :
    (m.setAll a vs).get c = if h : a ≤ c ∧ c < a + vs.length then vs[c - a]'(by omega) else m.get c := by
  induction vs generalizing m a with
  | nil =>
    rw [dif_neg (by simp)]
    rfl
  | cons v vs ih =>
    simp only [Memory.setAll]
    rw [ih (Memory.wf_set hm a v), Memory.get_set hm]
    by_cases hca : c = a
    · subst hca; simp
    · by_cases h : a + 1 ≤ c ∧ c < a + 1 + vs.length
      · rw [dif_pos h, dif_pos (by simp; omega)]
        have : c - a = (c - (a + 1)) + 1 := by omega
        simp [this]
      · rw [dif_neg h, dif_neg (by simp; omega), if_neg hca]

@[simp] theorem Memory.length_getAll (m : Memory) (a n : Nat) : (m.getAll a n).length = n := by
  induction n generalizing a with
  | zero => rfl
  | succ n ih => simp [Memory.getAll, ih]

theorem Memory.getElem_getAll (m : Memory) (a n i : Nat) (h : i < (m.getAll a n).length) :
    (m.getAll a n)[i] = m.get (a + i) := by
  induction n generalizing a i with
  | zero => simp at h
  | succ n ih =>
    cases i with
    | zero => rfl
    | succ i =>
      simp only [Memory.getAll, List.getElem_cons_succ]
      rw [ih]
      congr 1
      omega

theorem Memory.inRange_cell {m : Memory} {a : Nat} {v : Byte} (hm : m.inRange = true) (ha : a < 2 ^ 32) :
    (Memory.cell a v m).inRange = true := by
  unfold Memory.cell
  split
  · exact hm
  · simp only [Memory.inRange, List.all_cons, Bool.and_eq_true, decide_eq_true_eq] at hm ⊢
    exact ⟨ha, hm⟩

/-- A write at an address keeps every listed address below 2^32. -/
theorem Memory.inRange_set {m : Memory} {a : Nat} {v : Byte} (hm : m.inRange = true) (ha : a < 2 ^ 32) :
    (m.set a v).inRange = true := by
  induction m with
  | nil => exact Memory.inRange_cell (m := []) rfl ha
  | cons c m ih =>
    obtain ⟨c, w⟩ := c
    unfold Memory.set
    split
    · exact Memory.inRange_cell hm ha
    · have h2 : Memory.inRange m = true := by
        simp only [Memory.inRange, List.all_cons, Bool.and_eq_true] at hm ⊢; exact hm.2
      split
      · exact Memory.inRange_cell h2 ha
      · simp only [Memory.inRange, List.all_cons, Bool.and_eq_true, decide_eq_true_eq] at hm ⊢
        exact ⟨hm.1, ih h2⟩

theorem Memory.inRange_setAll {m : Memory} (a : Nat) (vs : List Byte) (hm : m.inRange = true)
    (ha : a + vs.length ≤ 2 ^ 32) : (m.setAll a vs).inRange = true := by
  induction vs generalizing m a with
  | nil => exact hm
  | cons v vs ih =>
    simp only [List.length_cons] at ha
    exact ih (a + 1) (Memory.inRange_set hm (by omega)) (by omega)

end Sys2Proof.Machine
end

