-- ==== Sys2Proof/Laws/Cache.lean ====
section
/-!
SUPPORT. What the operations on the D-cache do to the invariant: each keeps the lines aligned, distinct, in cacheable
memory (`p` of the base address), and equal to memory where they are clean.
-/
namespace Sys2Proof.Machine

/-- A line of sixteen aligned bytes of cacheable memory. -/
def LineShape (p : Nat → Prop) (l : CacheLine) : Prop :=
  l.base % 16 = 0 ∧ l.base + 16 ≤ 2 ^ 32 ∧ l.data.length = 16 ∧ p l.base

/-- The part of the invariant that speaks of the D-cache and memory. -/
structure DataOk (p : Nat → Prop) (ls : List CacheLine) (m : Memory) : Prop where
  wf : m.wf = true
  inRange : m.inRange = true
  shape : ∀ l ∈ ls, LineShape p l
  clean : ∀ l ∈ ls, l.dirty = false → l.data = m.getAll l.base 16
  distinct : ls.Pairwise fun k l => k.base ≠ l.base

theorem Memory.getAll_congr {m m' : Memory} {a n : Nat} (h : ∀ i, i < n → m'.get (a + i) = m.get (a + i)) :
    m'.getAll a n = m.getAll a n := by
  apply List.ext_getElem (by simp)
  intro i h1 h2
  simp only [Memory.getElem_getAll]
  exact h i (by simpa using h1)

/-- Bytes written outside an aligned line leave the line's bytes. -/
theorem getAll_setAll_other {p : Nat → Prop} {m : Memory} (hm : m.wf = true) {k l : CacheLine} (hk : LineShape p k)
    (hl : LineShape p l) (h : k.base ≠ l.base) : (m.setAll l.base l.data).getAll k.base 16 = m.getAll k.base 16 := by
  apply Memory.getAll_congr
  intro i hi
  rw [Memory.get_setAll hm, dif_neg]
  have h1 := hk.1; have h2 := hl.1; have h3 := hl.2.2.1
  omega

theorem writeBack_facts {p : Nat → Prop} {m : Memory} (hm : m.wf = true) (hr : m.inRange = true) {l : CacheLine}
    (hl : LineShape p l) : (writeBack m l).wf = true ∧ (writeBack m l).inRange = true ∧
      (∀ k, LineShape p k → k.base ≠ l.base → (writeBack m l).getAll k.base 16 = m.getAll k.base 16) ∧
      (l.dirty = true → (writeBack m l).getAll l.base 16 = l.data) ∧ (l.dirty = false → writeBack m l = m) := by
  unfold writeBack
  split
  · next hd =>
    refine ⟨Memory.wf_setAll hm _ _, Memory.inRange_setAll _ _ hr ?_, fun k hk hne => getAll_setAll_other hm hk hl hne,
      fun _ => ?_, fun h => by simp [hd] at h⟩
    · rw [hl.2.2.1]; exact hl.2.1
    · apply List.ext_getElem (by simp [hl.2.2.1])
      intro i h1 h2
      rw [Memory.getElem_getAll, Memory.get_setAll hm, dif_pos (by omega)]
      simp
  · next hd => exact ⟨hm, hr, fun _ _ _ => rfl, fun h => absurd h hd, fun _ => rfl⟩

/-- Writing back lines leaves the bytes of every other line. -/
theorem writeBackAll_facts {p : Nat → Prop} (es : List CacheLine) {m : Memory} (hm : m.wf = true)
    (hr : m.inRange = true) (hs : ∀ e ∈ es, LineShape p e) : (writeBackAll m es).wf = true ∧
      (writeBackAll m es).inRange = true ∧
      ∀ k, LineShape p k → (∀ e ∈ es, k.base ≠ e.base) → (writeBackAll m es).getAll k.base 16 = m.getAll k.base 16 := by
  induction es generalizing m with
  | nil => exact ⟨hm, hr, fun _ _ _ => rfl⟩
  | cons e es ih =>
    obtain ⟨h1, h2, h3, -, -⟩ := writeBack_facts hm hr (hs e (by simp))
    obtain ⟨i1, i2, i3⟩ := ih h1 h2 fun x hx => hs x (by simp [hx])
    refine ⟨i1, i2, fun k hk hne => ?_⟩
    exact (i3 k hk fun x hx => hne x (by simp [hx])).trans (h3 k hk (hne e (by simp)))

/-- After the write-back of all lines memory holds the data of each. -/
theorem writeBackAll_data {p : Nat → Prop} (es : List CacheLine) {m : Memory} (h : DataOk p es m) :
    ∀ l ∈ es, l.data = (writeBackAll m es).getAll l.base 16 := by
  induction es generalizing m with
  | nil => simp
  | cons e es ih =>
    have he := h.shape e (by simp)
    obtain ⟨h1, h2, h3, h4, h5⟩ := writeBack_facts h.wf h.inRange he
    have hd := List.pairwise_cons.mp h.distinct
    have ht : DataOk p es (writeBack m e) :=
      ⟨h1, h2, fun l hl => h.shape l (by simp [hl]),
        fun l hl hc => (h.clean l (by simp [hl]) hc).trans
          (h3 l (h.shape l (by simp [hl])) (Ne.symm (hd.1 l hl))).symm, hd.2⟩
    intro l hl
    rcases List.mem_cons.mp hl with rfl | hl
    · have hk := (writeBackAll_facts es h1 h2 fun x hx => h.shape x (by simp [hx])).2.2 l he fun x hx => hd.1 x hx
      change l.data = (writeBackAll (writeBack m l) es).getAll l.base 16
      rw [hk]
      cases hb : l.dirty with
      | true => exact (h4 hb).symm
      | false => rw [h5 hb]; exact h.clean l (by simp) hb
    · exact ih ht l hl

theorem DataOk.filter {p : Nat → Prop} {ls : List CacheLine} {m : Memory} (h : DataOk p ls m) (q : CacheLine → Bool) :
    DataOk p (ls.filter q) m :=
  ⟨h.wf, h.inRange, fun l hl => h.shape l (List.mem_of_mem_filter hl),
    fun l hl => h.clean l (List.mem_of_mem_filter hl), h.distinct.filter _⟩

theorem pairwise_ne_of_mem {ls : List CacheLine} (h : ls.Pairwise fun k l => k.base ≠ l.base) {k l : CacheLine}
    (hk : k ∈ ls) (hl : l ∈ ls) (hne : k ≠ l) : k.base ≠ l.base := by
  induction ls with
  | nil => simp at hk
  | cons e es ih =>
    have hd := List.pairwise_cons.mp h
    rcases List.mem_cons.mp hk with rfl | hk1 <;> rcases List.mem_cons.mp hl with rfl | hl1
    · exact absurd rfl hne
    · exact hd.1 l hl1
    · exact Ne.symm (hd.1 k hk1)
    · exact ih hd.2 hk1 hl1

/-- Emptying lines keeps the invariant. -/
theorem DataOk.evict {p : Nat → Prop} {c : Cache} {m : Memory} (h : DataOk p c.lines m) (q : CacheLine → Bool) :
    DataOk p (c.evict m q).1.lines (c.evict m q).2 := by
  have hs : ∀ e ∈ c.lines.filter q, LineShape p e := fun e he => h.shape e (List.mem_of_mem_filter he)
  obtain ⟨h1, h2, h3⟩ := writeBackAll_facts _ h.wf h.inRange hs
  have hf := h.filter fun l => !q l
  refine ⟨h1, h2, hf.shape, fun l hl hc => (hf.clean l hl hc).trans (h3 l (hf.shape l hl) fun e he => ?_).symm,
    hf.distinct⟩
  have hl' := List.mem_filter.mp hl
  have he' := List.mem_filter.mp he
  refine pairwise_ne_of_mem h.distinct hl'.1 he'.1 ?_
  rintro rfl
  simp [he'.2] at hl'

theorem findLine_some {ls : List CacheLine} {b : Nat} {l : CacheLine} (h : findLine ls b = some l) :
    l ∈ ls ∧ l.base = b := by
  induction ls with
  | nil => simp [findLine] at h
  | cons e es ih =>
    unfold findLine at h
    split at h
    · next he => obtain rfl := Option.some.inj h; exact ⟨by simp, he⟩
    · exact ⟨List.mem_cons_of_mem _ (ih h).1, (ih h).2⟩

theorem findLine_none {ls : List CacheLine} {b : Nat} (h : findLine ls b = none) : ∀ l ∈ ls, l.base ≠ b := by
  induction ls with
  | nil => simp
  | cons e es ih =>
    unfold findLine at h
    split at h
    · simp at h
    · next he =>
      intro l hl
      rcases List.mem_cons.mp hl with rfl | hl
      · exact he
      · exact ih h l hl

@[simp] theorem Cache.mark_lines (c : Cache) (set : Nat) (w : Bool) : (c.mark set w).lines = c.lines := rfl

/-- A line filled from memory joins lines of other addresses. -/
theorem DataOk.cons_fresh {p : Nat → Prop} {ls : List CacheLine} {m : Memory} (h : DataOk p ls m) {g : Geometry}
    (hg : g.lineBytes = 16) {a : Nat} (ha : a < 2 ^ 32) (hp : p (g.base a)) (hn : ∀ l ∈ ls, l.base ≠ g.base a)
    (w k : Bool) : DataOk p (freshLine m g a w k :: ls) m := by
  refine ⟨h.wf, h.inRange, ?_, ?_, ?_⟩
  · intro l hl
    rcases List.mem_cons.mp hl with rfl | hl
    · refine ⟨?_, ?_, ?_, hp⟩ <;> simp only [freshLine, Geometry.base, hg, Memory.length_getAll] <;> omega
    · exact h.shape l hl
  · intro l hl hc
    rcases List.mem_cons.mp hl with rfl | hl
    · simp [freshLine, hg]
    · exact h.clean l hl hc
  · exact List.pairwise_cons.mpr ⟨fun l hl => Ne.symm (hn l hl), h.distinct⟩

theorem DataOk.replace {p : Nat → Prop} {c : Cache} {m : Memory} (h : DataOk p c.lines m) {g : Geometry}
    (hg : g.lineBytes = 16) {a : Nat} (ha : a < 2 ^ 32) (hp : p (g.base a)) (w k : Bool)
    (hn : ∀ l ∈ c.lines, l.inWay g (g.set a) w = false → l.base ≠ g.base a) :
    DataOk p (c.replace m g a w k).1.lines (c.replace m g a w k).2 := by
  refine DataOk.cons_fresh (h.evict fun l => l.inWay g (g.set a) w) hg ha hp (fun l hl => ?_) w k
  have hl' := List.mem_filter.mp hl
  exact hn l hl'.1 (by simpa using hl'.2)

/-- A load's fill keeps the invariant. -/
theorem DataOk.readFill {p : Nat → Prop} {c : Cache} {m : Memory} (h : DataOk p c.lines m) {g : Geometry}
    (hg : g.lineBytes = 16) {a : Nat} (ha : a < 2 ^ 32) (hp : p (g.base a)) :
    DataOk p (c.readFill m g a).1.lines (c.readFill m g a).2 := by
  unfold Cache.readFill
  split
  · exact h
  · next hf => exact h.replace hg ha hp _ _ fun l hl _ => findLine_none hf l hl

theorem Geometry.set_of_base {g : Geometry} {b a : Nat} (hg : g.lineBytes = 16) (h : b = g.base a) :
    g.set b = g.set a := by
  have : b / 16 = a / 16 := by simp only [Geometry.base, hg] at h; omega
  simp [Geometry.set, hg, this]

/-- A prefetch keeps the invariant. -/
theorem DataOk.prefetch {p : Nat → Prop} {c : Cache} {m : Memory} (h : DataOk p c.lines m) {g : Geometry}
    (hg : g.lineBytes = 16) {a : Nat} (ha : a < 2 ^ 32) (hp : p (g.base a)) :
    DataOk p (c.prefetch m g a).1.lines (c.prefetch m g a).2 := by
  unfold Cache.prefetch
  split
  · next l hf =>
    have hl := findLine_some hf
    refine h.replace hg ha hp _ _ fun k hk hw hb => ?_
    by_cases hkl : k = l
    · subst hkl
      simp [CacheLine.inWay, Geometry.set_of_base hg hb] at hw
    · exact pairwise_ne_of_mem h.distinct hk hl.1 hkl (hb.trans hl.2.symm)
  · next hf => exact h.replace hg ha hp _ _ fun l hl _ => findLine_none hf l hl

/-- A prefetch with lock keeps the invariant. -/
theorem DataOk.prefetchLock {p : Nat → Prop} {c : Cache} {m : Memory} (h : DataOk p c.lines m) {g : Geometry}
    (hg : g.lineBytes = 16) {a : Nat} (ha : a < 2 ^ 32) (hp : p (g.base a)) :
    DataOk p (c.prefetchLock m g a).1.lines (c.prefetchLock m g a).2 := by
  refine (h.evict fun l => decide (l.base = g.base a)).replace hg ha hp _ _ fun l hl _ => ?_
  have := (List.mem_filter.mp hl).2
  simpa using this

/-- An invalidation keeps the invariant. -/
theorem DataOk.invalidate {p : Nat → Prop} {c : Cache} {m : Memory} (h : DataOk p c.lines m) (g : Geometry) (a : Nat) :
    DataOk p (c.invalidate g a).lines m := h.filter _

theorem mem_mapLine {f : CacheLine → CacheLine} {ls : List CacheLine} {b : Nat} {x : CacheLine}
    (hd : ls.Pairwise fun k l => k.base ≠ l.base) (h : x ∈ mapLine f ls b) :
    (x ∈ ls ∧ x.base ≠ b) ∨ ∃ l ∈ ls, l.base = b ∧ x = f l := by
  induction ls with
  | nil => simp [mapLine] at h
  | cons e es ih =>
    have hp := List.pairwise_cons.mp hd
    unfold mapLine at h
    split at h
    · next he =>
      rcases List.mem_cons.mp h with rfl | hx
      · exact .inr ⟨e, by simp, he, rfl⟩
      · exact .inl ⟨by simp [hx], fun hb => hp.1 x hx (he.trans hb.symm)⟩
    · next he =>
      rcases List.mem_cons.mp h with rfl | hx
      · exact .inl ⟨by simp, he⟩
      · rcases ih hp.2 hx with ⟨h1, h2⟩ | ⟨l, h1, h2⟩
        · exact .inl ⟨by simp [h1], h2⟩
        · exact .inr ⟨l, by simp [h1], h2⟩

theorem map_base_mapLine {f : CacheLine → CacheLine} (hf : ∀ l, (f l).base = l.base) (ls : List CacheLine) (b : Nat) :
    (mapLine f ls b).map CacheLine.base = ls.map CacheLine.base := by
  induction ls with
  | nil => rfl
  | cons e es ih =>
    unfold mapLine
    split
    · simp [hf]
    · simp [ih]

theorem distinct_iff_map {ls : List CacheLine} :
    (ls.Pairwise fun k l => k.base ≠ l.base) ↔ (ls.map CacheLine.base).Pairwise (· ≠ ·) := by
  rw [List.pairwise_map]

/-- A change of one line keeps the invariant if it keeps it for that line and memory keeps the bytes of the others. -/
theorem DataOk.mapLine {p : Nat → Prop} {ls : List CacheLine} {m m' : Memory} (h : DataOk p ls m)
    {f : CacheLine → CacheLine} (hf : ∀ l, (f l).base = l.base) {b : Nat} (hw : m'.wf = true)
    (hr : m'.inRange = true) (hs : ∀ l ∈ ls, l.base = b → LineShape p (f l))
    (hc : ∀ l ∈ ls, l.base = b → (f l).dirty = false → (f l).data = m'.getAll b 16)
    (ho : ∀ k, LineShape p k → k.base ≠ b → m'.getAll k.base 16 = m.getAll k.base 16) :
    DataOk p (Machine.mapLine f ls b) m' := by
  refine ⟨hw, hr, ?_, ?_, ?_⟩
  · intro x hx
    rcases mem_mapLine h.distinct hx with ⟨h1, -⟩ | ⟨l, h1, h2, rfl⟩
    · exact h.shape x h1
    · exact hs l h1 h2
  · intro x hx hd
    rcases mem_mapLine h.distinct hx with ⟨h1, h2⟩ | ⟨l, h1, h2, rfl⟩
    · exact (h.clean x h1 hd).trans (ho x (h.shape x h1) h2).symm
    · rw [hf, h2]; exact hc l h1 h2 hd
  · rw [distinct_iff_map, map_base_mapLine hf, ← distinct_iff_map]; exact h.distinct

/-- A line write-out keeps the invariant. -/
theorem DataOk.writeOut {p : Nat → Prop} {c : Cache} {m : Memory} (h : DataOk p c.lines m) (g : Geometry) (a : Nat) :
    DataOk p (c.writeOut m g a).1.lines (c.writeOut m g a).2 := by
  unfold Cache.writeOut
  split
  · exact h
  · next l hf =>
    obtain ⟨hl, hb⟩ := findLine_some hf
    obtain ⟨h1, h2, h3, h4, h5⟩ := writeBack_facts h.wf h.inRange (h.shape l hl)
    refine DataOk.mapLine (f := fun k => { k with dirty := false }) h (fun _ => rfl) h1 h2
      (fun k hk _ => h.shape k hk) (fun k hk hkb _ => ?_) (fun k hk hne => h3 k hk (hb ▸ hne))
    have hkl : k = l := by
      by_contra hne
      exact pairwise_ne_of_mem h.distinct hk hl hne (hkb.trans hb.symm)
    subst hkl
    show k.data = _
    rw [← hb]
    cases hd : k.dirty with
    | true => exact (h4 hd).symm
    | false => rw [h5 hd]; exact h.clean k hl hd

/-- A line flush keeps the invariant. -/
theorem DataOk.flush {p : Nat → Prop} {c : Cache} {m : Memory} (h : DataOk p c.lines m) (g : Geometry) (a : Nat) :
    DataOk p (c.flush m g a).1.lines (c.flush m g a).2 := by
  unfold Cache.flush
  split
  · exact h
  · exact h.evict _

/-- The write-out of the whole cache keeps the invariant. -/
theorem DataOk.writeOutAll {p : Nat → Prop} {c : Cache} {m : Memory} (h : DataOk p c.lines m) :
    DataOk p (c.writeOutAll m).1.lines (c.writeOutAll m).2 := by
  obtain ⟨h1, h2, -⟩ := writeBackAll_facts c.lines h.wf h.inRange h.shape
  refine ⟨h1, h2, ?_, ?_, ?_⟩
  · intro x hx
    obtain ⟨l, hl, rfl⟩ := List.mem_map.mp hx
    exact h.shape l hl
  · intro x hx _
    obtain ⟨l, hl, rfl⟩ := List.mem_map.mp hx
    exact writeBackAll_data c.lines h l hl
  · exact List.pairwise_map.mpr h.distinct

/-- The flush of the whole cache keeps the invariant. -/
theorem DataOk.flushAll {p : Nat → Prop} {c : Cache} {m : Memory} (h : DataOk p c.lines m) (g : Geometry) :
    DataOk p (c.flushAll m g).1.lines (c.flushAll m g).2 := by
  obtain ⟨h1, h2, -⟩ := writeBackAll_facts c.lines h.wf h.inRange h.shape
  exact ⟨h1, h2, by simp [Cache.flushAll], by simp [Cache.flushAll], by simp [Cache.flushAll]⟩

/-! ## Lines that are given up -/

theorem writeBackAll_clean {es : List CacheLine} (h : ∀ l ∈ es, l.dirty = false) (m : Memory) :
    writeBackAll m es = m := by
  induction es generalizing m with
  | nil => rfl
  | cons e es ih =>
    have : writeBack m e = m := by simp [writeBack, h e (by simp)]
    change writeBackAll (writeBack m e) es = m
    rw [this]
    exact ih (fun l hl => h l (by simp [hl])) m

/-- A cache gives up no dirty line. -/
theorem Cache.losesDirty_false {c d : Cache} :
    c.losesDirty d = false ↔ ∀ l ∈ c.lines, l.dirty = true → l ∈ d.lines := by
  simp [Cache.losesDirty]

theorem Cache.losesDirty_true {c d : Cache} :
    c.losesDirty d = true ↔ ∃ l ∈ c.lines, l.dirty = true ∧ l ∉ d.lines := by
  simp [Cache.losesDirty]

/-- Lines are emptied without a write to memory if no dirty one is lost. -/
theorem Cache.evict_keeps {c d : Cache} {q : CacheLine → Bool} (m : Memory)
    (hd : ∀ l ∈ d.lines, l.dirty = false ∨ l ∈ c.lines ∧ q l = false)
    (h : ∀ l ∈ c.lines, l.dirty = true → l ∈ d.lines) : (c.evict m q).2 = m := by
  refine writeBackAll_clean (fun l hl => ?_) m
  obtain ⟨hl, hq⟩ := List.mem_filter.mp hl
  cases hk : l.dirty with
  | false => rfl
  | true =>
    rcases hd l (h l hl hk) with h | ⟨-, h⟩
    · simp [hk] at h
    · simp [hq] at h

theorem Cache.mem_replace {c : Cache} {m : Memory} {g : Geometry} {a : Nat} {w k : Bool} {l : CacheLine}
    (h : l ∈ (c.replace m g a w k).1.lines) : l.dirty = false ∨ l ∈ c.lines ∧ l.inWay g (g.set a) w = false := by
  simp only [Cache.replace, Cache.mark_lines, List.mem_cons, Cache.evict, List.mem_filter, Bool.not_eq_true'] at h
  rcases h with rfl | h
  · exact .inl rfl
  · exact .inr h

/-- A line is replaced without a write to memory if no dirty one is lost. -/
theorem Cache.replace_keeps {c : Cache} {m : Memory} {g : Geometry} {a : Nat} {w k : Bool}
    (h : c.losesDirty (c.replace m g a w k).1 = false) : (c.replace m g a w k).2 = m :=
  Cache.evict_keeps m (fun _ => Cache.mem_replace) (Cache.losesDirty_false.mp h)

theorem Cache.readFill_keeps {c : Cache} {m : Memory} {g : Geometry} {a : Nat}
    (h : c.losesDirty (c.readFill m g a).1 = false) : (c.readFill m g a).2 = m := by
  unfold Cache.readFill at h ⊢
  split at h
  · rfl
  · exact Cache.replace_keeps h

theorem Cache.prefetch_keeps {c : Cache} {m : Memory} {g : Geometry} {a : Nat}
    (h : c.losesDirty (c.prefetch m g a).1 = false) : (c.prefetch m g a).2 = m := by
  unfold Cache.prefetch at h ⊢
  split at h <;> exact Cache.replace_keeps h

theorem Cache.prefetchLock_keeps {c : Cache} {m : Memory} {g : Geometry} {a : Nat}
    (h : c.losesDirty (c.prefetchLock m g a).1 = false) : (c.prefetchLock m g a).2 = m := by
  have hd := Cache.losesDirty_false.mp h
  refine (Cache.evict_keeps _ (fun _ => Cache.mem_replace) fun l hl hk => hd l (List.mem_of_mem_filter hl) hk).trans
    (Cache.evict_keeps m (fun l hl => ?_) hd)
  rcases Cache.mem_replace hl with h | ⟨h, -⟩
  · exact .inl h
  · exact .inr (by simpa using List.mem_filter.mp h)

end Sys2Proof.Machine
end

