-- ==== Sys2Proof/Laws/State.lean ====
section
/-!
SUPPORT. One lemma per field per update of the state, true by unfolding, and the reads of a general register after a write.
-/
namespace Sys2Proof.Machine

/-- Reading a register after a write. -/
@[simp] theorem State.r_setR (s : State) (i j : BitVec 5) (v : Word) :
    (s.setR i v).r j = if j = i then v else s.r j := by
  unfold State.setR State.r
  simp only [Vector.getElem_set]
  by_cases h : j = i
  · simp [h]
  · have : i.toNat ≠ j.toNat := fun e => h (BitVec.eq_of_toNat_eq e.symm)
    simp [h, this]

@[simp] theorem State.setR_pc (s : State) (i : BitVec 5) (v : Word) : (s.setR i v).pc = s.pc := rfl
@[simp] theorem State.setR_ceh (s : State) (i : BitVec 5) (v : Word) : (s.setR i v).ceh = s.ceh := rfl
@[simp] theorem State.setR_cel (s : State) (i : BitVec 5) (v : Word) : (s.setR i v).cel = s.cel := rfl
@[simp] theorem State.setR_cnt (s : State) (i : BitVec 5) (v : Word) : (s.setR i v).cnt = s.cnt := rfl
@[simp] theorem State.setR_lcr (s : State) (i : BitVec 5) (v : Word) : (s.setR i v).lcr = s.lcr := rfl
@[simp] theorem State.setR_scr (s : State) (i : BitVec 5) (v : Word) : (s.setR i v).scr = s.scr := rfl
@[simp] theorem State.setR_psr (s : State) (i : BitVec 5) (v : Word) : (s.setR i v).psr = s.psr := rfl
@[simp] theorem State.setR_cond (s : State) (i : BitVec 5) (v : Word) : (s.setR i v).cond = s.cond := rfl
@[simp] theorem State.setR_ecr (s : State) (i : BitVec 5) (v : Word) : (s.setR i v).ecr = s.ecr := rfl
@[simp] theorem State.setR_excpVec (s : State) (i : BitVec 5) (v : Word) : (s.setR i v).excpVec = s.excpVec := rfl
@[simp] theorem State.setR_ccr (s : State) (i : BitVec 5) (v : Word) : (s.setR i v).ccr = s.ccr := rfl
@[simp] theorem State.setR_epc (s : State) (i : BitVec 5) (v : Word) : (s.setR i v).epc = s.epc := rfl
@[simp] theorem State.setR_ema (s : State) (i : BitVec 5) (v : Word) : (s.setR i v).ema = s.ema := rfl
@[simp] theorem State.setR_limpfn (s : State) (i : BitVec 5) (v : Word) : (s.setR i v).limpfn = s.limpfn := rfl
@[simp] theorem State.setR_ldmpfn (s : State) (i : BitVec 5) (v : Word) : (s.setR i v).ldmpfn = s.ldmpfn := rfl
@[simp] theorem State.setR_dreg (s : State) (i : BitVec 5) (v : Word) : (s.setR i v).dreg = s.dreg := rfl
@[simp] theorem State.setR_depc (s : State) (i : BitVec 5) (v : Word) : (s.setR i v).depc = s.depc := rfl
@[simp] theorem State.setR_dsave (s : State) (i : BitVec 5) (v : Word) : (s.setR i v).dsave = s.dsave := rfl
@[simp] theorem State.setR_ibrk (s : State) (i : BitVec 5) (v : Word) : (s.setR i v).ibrk = s.ibrk := rfl
@[simp] theorem State.setR_dbrk (s : State) (i : BitVec 5) (v : Word) : (s.setR i v).dbrk = s.dbrk := rfl
@[simp] theorem State.setR_cop1 (s : State) (i : BitVec 5) (v : Word) : (s.setR i v).cop1 = s.cop1 := rfl
@[simp] theorem State.setR_cop2 (s : State) (i : BitVec 5) (v : Word) : (s.setR i v).cop2 = s.cop2 := rfl
@[simp] theorem State.setR_cop3 (s : State) (i : BitVec 5) (v : Word) : (s.setR i v).cop3 = s.cop3 := rfl
@[simp] theorem State.setR_atbit (s : State) (i : BitVec 5) (v : Word) : (s.setR i v).atbit = s.atbit := rfl
@[simp] theorem State.setR_sleeping (s : State) (i : BitVec 5) (v : Word) : (s.setR i v).sleeping = s.sleeping := rfl
@[simp] theorem State.setR_stepped (s : State) (i : BitVec 5) (v : Word) : (s.setR i v).stepped = s.stepped := rfl
@[simp] theorem State.setR_ddblvPending (s : State) (i : BitVec 5) (v : Word) : (s.setR i v).ddblvPending = s.ddblvPending := rfl
@[simp] theorem State.setR_nmiPending (s : State) (i : BitVec 5) (v : Word) : (s.setR i v).nmiPending = s.nmiPending := rfl
@[simp] theorem State.setR_busErrPending (s : State) (i : BitVec 5) (v : Word) : (s.setR i v).busErrPending = s.busErrPending := rfl
@[simp] theorem State.setR_mem (s : State) (i : BitVec 5) (v : Word) : (s.setR i v).mem = s.mem := rfl
@[simp] theorem State.setR_wbuf (s : State) (i : BitVec 5) (v : Word) : (s.setR i v).wbuf = s.wbuf := rfl
@[simp] theorem State.setR_icache (s : State) (i : BitVec 5) (v : Word) : (s.setR i v).icache = s.icache := rfl
@[simp] theorem State.setR_dcache (s : State) (i : BitVec 5) (v : Word) : (s.setR i v).dcache = s.dcache := rfl
@[simp] theorem State.setR_pce (s : State) (i : BitVec 5) (v : Word) : (s.setR i v).pce = s.pce := rfl
@[simp] theorem State.setR_raised (s : State) (i : BitVec 5) (v : Word) : (s.setR i v).raised = s.raised := rfl
@[simp] theorem State.setR_freeCtr (s : State) (i : BitVec 5) (v : Word) : (s.setR i v).freeCtr = s.freeCtr := rfl
@[simp] theorem State.setR_inputs (s : State) (i : BitVec 5) (v : Word) : (s.setR i v).inputs = s.inputs := rfl
@[simp] theorem State.setR_cfg (s : State) (i : BitVec 5) (v : Word) : (s.setR i v).cfg = s.cfg := rfl
@[simp] theorem State.setR_flags (s : State) (i : BitVec 5) (v : Word) : (s.setR i v).flags = s.flags := rfl

@[simp] theorem State.setFlags_gpr (s : State) (f : Flags) : (s.setFlags f).gpr = s.gpr := rfl
@[simp] theorem State.setFlags_pc (s : State) (f : Flags) : (s.setFlags f).pc = s.pc := rfl
@[simp] theorem State.setFlags_ceh (s : State) (f : Flags) : (s.setFlags f).ceh = s.ceh := rfl
@[simp] theorem State.setFlags_cel (s : State) (f : Flags) : (s.setFlags f).cel = s.cel := rfl
@[simp] theorem State.setFlags_cnt (s : State) (f : Flags) : (s.setFlags f).cnt = s.cnt := rfl
@[simp] theorem State.setFlags_lcr (s : State) (f : Flags) : (s.setFlags f).lcr = s.lcr := rfl
@[simp] theorem State.setFlags_scr (s : State) (f : Flags) : (s.setFlags f).scr = s.scr := rfl
@[simp] theorem State.setFlags_psr (s : State) (f : Flags) : (s.setFlags f).psr = s.psr := rfl
@[simp] theorem State.setFlags_ecr (s : State) (f : Flags) : (s.setFlags f).ecr = s.ecr := rfl
@[simp] theorem State.setFlags_excpVec (s : State) (f : Flags) : (s.setFlags f).excpVec = s.excpVec := rfl
@[simp] theorem State.setFlags_ccr (s : State) (f : Flags) : (s.setFlags f).ccr = s.ccr := rfl
@[simp] theorem State.setFlags_epc (s : State) (f : Flags) : (s.setFlags f).epc = s.epc := rfl
@[simp] theorem State.setFlags_ema (s : State) (f : Flags) : (s.setFlags f).ema = s.ema := rfl
@[simp] theorem State.setFlags_limpfn (s : State) (f : Flags) : (s.setFlags f).limpfn = s.limpfn := rfl
@[simp] theorem State.setFlags_ldmpfn (s : State) (f : Flags) : (s.setFlags f).ldmpfn = s.ldmpfn := rfl
@[simp] theorem State.setFlags_dreg (s : State) (f : Flags) : (s.setFlags f).dreg = s.dreg := rfl
@[simp] theorem State.setFlags_depc (s : State) (f : Flags) : (s.setFlags f).depc = s.depc := rfl
@[simp] theorem State.setFlags_dsave (s : State) (f : Flags) : (s.setFlags f).dsave = s.dsave := rfl
@[simp] theorem State.setFlags_ibrk (s : State) (f : Flags) : (s.setFlags f).ibrk = s.ibrk := rfl
@[simp] theorem State.setFlags_dbrk (s : State) (f : Flags) : (s.setFlags f).dbrk = s.dbrk := rfl
@[simp] theorem State.setFlags_cop1 (s : State) (f : Flags) : (s.setFlags f).cop1 = s.cop1 := rfl
@[simp] theorem State.setFlags_cop2 (s : State) (f : Flags) : (s.setFlags f).cop2 = s.cop2 := rfl
@[simp] theorem State.setFlags_cop3 (s : State) (f : Flags) : (s.setFlags f).cop3 = s.cop3 := rfl
@[simp] theorem State.setFlags_atbit (s : State) (f : Flags) : (s.setFlags f).atbit = s.atbit := rfl
@[simp] theorem State.setFlags_sleeping (s : State) (f : Flags) : (s.setFlags f).sleeping = s.sleeping := rfl
@[simp] theorem State.setFlags_stepped (s : State) (f : Flags) : (s.setFlags f).stepped = s.stepped := rfl
@[simp] theorem State.setFlags_ddblvPending (s : State) (f : Flags) : (s.setFlags f).ddblvPending = s.ddblvPending := rfl
@[simp] theorem State.setFlags_nmiPending (s : State) (f : Flags) : (s.setFlags f).nmiPending = s.nmiPending := rfl
@[simp] theorem State.setFlags_busErrPending (s : State) (f : Flags) : (s.setFlags f).busErrPending = s.busErrPending := rfl
@[simp] theorem State.setFlags_mem (s : State) (f : Flags) : (s.setFlags f).mem = s.mem := rfl
@[simp] theorem State.setFlags_wbuf (s : State) (f : Flags) : (s.setFlags f).wbuf = s.wbuf := rfl
@[simp] theorem State.setFlags_icache (s : State) (f : Flags) : (s.setFlags f).icache = s.icache := rfl
@[simp] theorem State.setFlags_dcache (s : State) (f : Flags) : (s.setFlags f).dcache = s.dcache := rfl
@[simp] theorem State.setFlags_pce (s : State) (f : Flags) : (s.setFlags f).pce = s.pce := rfl
@[simp] theorem State.setFlags_raised (s : State) (f : Flags) : (s.setFlags f).raised = s.raised := rfl
@[simp] theorem State.setFlags_freeCtr (s : State) (f : Flags) : (s.setFlags f).freeCtr = s.freeCtr := rfl
@[simp] theorem State.setFlags_inputs (s : State) (f : Flags) : (s.setFlags f).inputs = s.inputs := rfl
@[simp] theorem State.setFlags_cfg (s : State) (f : Flags) : (s.setFlags f).cfg = s.cfg := rfl
@[simp] theorem State.r_setFlags (s : State) (f : Flags) (j : BitVec 5) : (s.setFlags f).r j = s.r j := rfl

@[simp] theorem State.spend_gpr (s : State) : s.spend.gpr = s.gpr := rfl
@[simp] theorem State.spend_pc (s : State) : s.spend.pc = s.pc := rfl
@[simp] theorem State.spend_ceh (s : State) : s.spend.ceh = s.ceh := rfl
@[simp] theorem State.spend_cel (s : State) : s.spend.cel = s.cel := rfl
@[simp] theorem State.spend_cnt (s : State) : s.spend.cnt = s.cnt := rfl
@[simp] theorem State.spend_lcr (s : State) : s.spend.lcr = s.lcr := rfl
@[simp] theorem State.spend_scr (s : State) : s.spend.scr = s.scr := rfl
@[simp] theorem State.spend_psr (s : State) : s.spend.psr = s.psr := rfl
@[simp] theorem State.spend_cond (s : State) : s.spend.cond = s.cond := rfl
@[simp] theorem State.spend_ecr (s : State) : s.spend.ecr = s.ecr := rfl
@[simp] theorem State.spend_excpVec (s : State) : s.spend.excpVec = s.excpVec := rfl
@[simp] theorem State.spend_ccr (s : State) : s.spend.ccr = s.ccr := rfl
@[simp] theorem State.spend_epc (s : State) : s.spend.epc = s.epc := rfl
@[simp] theorem State.spend_ema (s : State) : s.spend.ema = s.ema := rfl
@[simp] theorem State.spend_limpfn (s : State) : s.spend.limpfn = s.limpfn := rfl
@[simp] theorem State.spend_ldmpfn (s : State) : s.spend.ldmpfn = s.ldmpfn := rfl
@[simp] theorem State.spend_dreg (s : State) : s.spend.dreg = s.dreg := rfl
@[simp] theorem State.spend_depc (s : State) : s.spend.depc = s.depc := rfl
@[simp] theorem State.spend_dsave (s : State) : s.spend.dsave = s.dsave := rfl
@[simp] theorem State.spend_ibrk (s : State) : s.spend.ibrk = s.ibrk := rfl
@[simp] theorem State.spend_dbrk (s : State) : s.spend.dbrk = s.dbrk := rfl
@[simp] theorem State.spend_cop1 (s : State) : s.spend.cop1 = s.cop1 := rfl
@[simp] theorem State.spend_cop2 (s : State) : s.spend.cop2 = s.cop2 := rfl
@[simp] theorem State.spend_cop3 (s : State) : s.spend.cop3 = s.cop3 := rfl
@[simp] theorem State.spend_atbit (s : State) : s.spend.atbit = s.atbit := rfl
@[simp] theorem State.spend_sleeping (s : State) : s.spend.sleeping = s.sleeping := rfl
@[simp] theorem State.spend_stepped (s : State) : s.spend.stepped = s.stepped := rfl
@[simp] theorem State.spend_ddblvPending (s : State) : s.spend.ddblvPending = s.ddblvPending := rfl
@[simp] theorem State.spend_nmiPending (s : State) : s.spend.nmiPending = s.nmiPending := rfl
@[simp] theorem State.spend_busErrPending (s : State) : s.spend.busErrPending = s.busErrPending := rfl
@[simp] theorem State.spend_mem (s : State) : s.spend.mem = s.mem := rfl
@[simp] theorem State.spend_wbuf (s : State) : s.spend.wbuf = s.wbuf := rfl
@[simp] theorem State.spend_icache (s : State) : s.spend.icache = s.icache := rfl
@[simp] theorem State.spend_dcache (s : State) : s.spend.dcache = s.dcache := rfl
@[simp] theorem State.spend_pce (s : State) : s.spend.pce = s.pce := rfl
@[simp] theorem State.spend_raised (s : State) : s.spend.raised = s.raised := rfl
@[simp] theorem State.spend_inputs (s : State) : s.spend.inputs = s.inputs := rfl
@[simp] theorem State.spend_cfg (s : State) : s.spend.cfg = s.cfg := rfl
@[simp] theorem State.r_spend (s : State) (j : BitVec 5) : s.spend.r j = s.r j := rfl
@[simp] theorem State.spend_flags (s : State) : s.spend.flags = s.flags := rfl

@[simp] theorem State.jump_gpr (s : State) (a : Word) : (s.jump a).gpr = s.gpr := rfl
@[simp] theorem State.jump_ceh (s : State) (a : Word) : (s.jump a).ceh = s.ceh := rfl
@[simp] theorem State.jump_cel (s : State) (a : Word) : (s.jump a).cel = s.cel := rfl
@[simp] theorem State.jump_cnt (s : State) (a : Word) : (s.jump a).cnt = s.cnt := rfl
@[simp] theorem State.jump_lcr (s : State) (a : Word) : (s.jump a).lcr = s.lcr := rfl
@[simp] theorem State.jump_scr (s : State) (a : Word) : (s.jump a).scr = s.scr := rfl
@[simp] theorem State.jump_psr (s : State) (a : Word) : (s.jump a).psr = s.psr := rfl
@[simp] theorem State.jump_cond (s : State) (a : Word) : (s.jump a).cond = s.cond := rfl
@[simp] theorem State.jump_ecr (s : State) (a : Word) : (s.jump a).ecr = s.ecr := rfl
@[simp] theorem State.jump_excpVec (s : State) (a : Word) : (s.jump a).excpVec = s.excpVec := rfl
@[simp] theorem State.jump_ccr (s : State) (a : Word) : (s.jump a).ccr = s.ccr := rfl
@[simp] theorem State.jump_epc (s : State) (a : Word) : (s.jump a).epc = s.epc := rfl
@[simp] theorem State.jump_ema (s : State) (a : Word) : (s.jump a).ema = s.ema := rfl
@[simp] theorem State.jump_limpfn (s : State) (a : Word) : (s.jump a).limpfn = s.limpfn := rfl
@[simp] theorem State.jump_ldmpfn (s : State) (a : Word) : (s.jump a).ldmpfn = s.ldmpfn := rfl
@[simp] theorem State.jump_dreg (s : State) (a : Word) : (s.jump a).dreg = s.dreg := rfl
@[simp] theorem State.jump_depc (s : State) (a : Word) : (s.jump a).depc = s.depc := rfl
@[simp] theorem State.jump_dsave (s : State) (a : Word) : (s.jump a).dsave = s.dsave := rfl
@[simp] theorem State.jump_ibrk (s : State) (a : Word) : (s.jump a).ibrk = s.ibrk := rfl
@[simp] theorem State.jump_dbrk (s : State) (a : Word) : (s.jump a).dbrk = s.dbrk := rfl
@[simp] theorem State.jump_cop1 (s : State) (a : Word) : (s.jump a).cop1 = s.cop1 := rfl
@[simp] theorem State.jump_cop2 (s : State) (a : Word) : (s.jump a).cop2 = s.cop2 := rfl
@[simp] theorem State.jump_cop3 (s : State) (a : Word) : (s.jump a).cop3 = s.cop3 := rfl
@[simp] theorem State.jump_atbit (s : State) (a : Word) : (s.jump a).atbit = s.atbit := rfl
@[simp] theorem State.jump_sleeping (s : State) (a : Word) : (s.jump a).sleeping = s.sleeping := rfl
@[simp] theorem State.jump_stepped (s : State) (a : Word) : (s.jump a).stepped = s.stepped := rfl
@[simp] theorem State.jump_ddblvPending (s : State) (a : Word) : (s.jump a).ddblvPending = s.ddblvPending := rfl
@[simp] theorem State.jump_nmiPending (s : State) (a : Word) : (s.jump a).nmiPending = s.nmiPending := rfl
@[simp] theorem State.jump_busErrPending (s : State) (a : Word) : (s.jump a).busErrPending = s.busErrPending := rfl
@[simp] theorem State.jump_mem (s : State) (a : Word) : (s.jump a).mem = s.mem := rfl
@[simp] theorem State.jump_wbuf (s : State) (a : Word) : (s.jump a).wbuf = s.wbuf := rfl
@[simp] theorem State.jump_icache (s : State) (a : Word) : (s.jump a).icache = s.icache := rfl
@[simp] theorem State.jump_dcache (s : State) (a : Word) : (s.jump a).dcache = s.dcache := rfl
@[simp] theorem State.jump_pce (s : State) (a : Word) : (s.jump a).pce = s.pce := rfl
@[simp] theorem State.jump_raised (s : State) (a : Word) : (s.jump a).raised = s.raised := rfl
@[simp] theorem State.jump_freeCtr (s : State) (a : Word) : (s.jump a).freeCtr = s.freeCtr := rfl
@[simp] theorem State.jump_inputs (s : State) (a : Word) : (s.jump a).inputs = s.inputs := rfl
@[simp] theorem State.jump_cfg (s : State) (a : Word) : (s.jump a).cfg = s.cfg := rfl
@[simp] theorem State.r_jump (s : State) (a : Word) (j : BitVec 5) : (s.jump a).r j = s.r j := rfl
@[simp] theorem State.jump_flags (s : State) (a : Word) : (s.jump a).flags = s.flags := rfl

@[simp] theorem State.advance_gpr (s : State) (w : Width) : (s.advance w).gpr = s.gpr := rfl
@[simp] theorem State.advance_ceh (s : State) (w : Width) : (s.advance w).ceh = s.ceh := rfl
@[simp] theorem State.advance_cel (s : State) (w : Width) : (s.advance w).cel = s.cel := rfl
@[simp] theorem State.advance_cnt (s : State) (w : Width) : (s.advance w).cnt = s.cnt := rfl
@[simp] theorem State.advance_lcr (s : State) (w : Width) : (s.advance w).lcr = s.lcr := rfl
@[simp] theorem State.advance_scr (s : State) (w : Width) : (s.advance w).scr = s.scr := rfl
@[simp] theorem State.advance_psr (s : State) (w : Width) : (s.advance w).psr = s.psr := rfl
@[simp] theorem State.advance_cond (s : State) (w : Width) : (s.advance w).cond = s.cond := rfl
@[simp] theorem State.advance_ecr (s : State) (w : Width) : (s.advance w).ecr = s.ecr := rfl
@[simp] theorem State.advance_excpVec (s : State) (w : Width) : (s.advance w).excpVec = s.excpVec := rfl
@[simp] theorem State.advance_ccr (s : State) (w : Width) : (s.advance w).ccr = s.ccr := rfl
@[simp] theorem State.advance_epc (s : State) (w : Width) : (s.advance w).epc = s.epc := rfl
@[simp] theorem State.advance_ema (s : State) (w : Width) : (s.advance w).ema = s.ema := rfl
@[simp] theorem State.advance_limpfn (s : State) (w : Width) : (s.advance w).limpfn = s.limpfn := rfl
@[simp] theorem State.advance_ldmpfn (s : State) (w : Width) : (s.advance w).ldmpfn = s.ldmpfn := rfl
@[simp] theorem State.advance_dreg (s : State) (w : Width) : (s.advance w).dreg = s.dreg := rfl
@[simp] theorem State.advance_depc (s : State) (w : Width) : (s.advance w).depc = s.depc := rfl
@[simp] theorem State.advance_dsave (s : State) (w : Width) : (s.advance w).dsave = s.dsave := rfl
@[simp] theorem State.advance_ibrk (s : State) (w : Width) : (s.advance w).ibrk = s.ibrk := rfl
@[simp] theorem State.advance_dbrk (s : State) (w : Width) : (s.advance w).dbrk = s.dbrk := rfl
@[simp] theorem State.advance_cop1 (s : State) (w : Width) : (s.advance w).cop1 = s.cop1 := rfl
@[simp] theorem State.advance_cop2 (s : State) (w : Width) : (s.advance w).cop2 = s.cop2 := rfl
@[simp] theorem State.advance_cop3 (s : State) (w : Width) : (s.advance w).cop3 = s.cop3 := rfl
@[simp] theorem State.advance_atbit (s : State) (w : Width) : (s.advance w).atbit = s.atbit := rfl
@[simp] theorem State.advance_sleeping (s : State) (w : Width) : (s.advance w).sleeping = s.sleeping := rfl
@[simp] theorem State.advance_stepped (s : State) (w : Width) : (s.advance w).stepped = s.stepped := rfl
@[simp] theorem State.advance_ddblvPending (s : State) (w : Width) : (s.advance w).ddblvPending = s.ddblvPending := rfl
@[simp] theorem State.advance_nmiPending (s : State) (w : Width) : (s.advance w).nmiPending = s.nmiPending := rfl
@[simp] theorem State.advance_busErrPending (s : State) (w : Width) : (s.advance w).busErrPending = s.busErrPending := rfl
@[simp] theorem State.advance_mem (s : State) (w : Width) : (s.advance w).mem = s.mem := rfl
@[simp] theorem State.advance_wbuf (s : State) (w : Width) : (s.advance w).wbuf = s.wbuf := rfl
@[simp] theorem State.advance_icache (s : State) (w : Width) : (s.advance w).icache = s.icache := rfl
@[simp] theorem State.advance_dcache (s : State) (w : Width) : (s.advance w).dcache = s.dcache := rfl
@[simp] theorem State.advance_pce (s : State) (w : Width) : (s.advance w).pce = s.pce := rfl
@[simp] theorem State.advance_raised (s : State) (w : Width) : (s.advance w).raised = s.raised := rfl
@[simp] theorem State.advance_freeCtr (s : State) (w : Width) : (s.advance w).freeCtr = s.freeCtr := rfl
@[simp] theorem State.advance_inputs (s : State) (w : Width) : (s.advance w).inputs = s.inputs := rfl
@[simp] theorem State.advance_cfg (s : State) (w : Width) : (s.advance w).cfg = s.cfg := rfl
@[simp] theorem State.r_advance (s : State) (w : Width) (j : BitVec 5) : (s.advance w).r j = s.r j := rfl
@[simp] theorem State.advance_flags (s : State) (w : Width) : (s.advance w).flags = s.flags := rfl

@[simp] theorem State.setCe_gpr (s : State) (h : Word) (l : Word) : (s.setCe h l).gpr = s.gpr := rfl
@[simp] theorem State.setCe_pc (s : State) (h : Word) (l : Word) : (s.setCe h l).pc = s.pc := rfl
@[simp] theorem State.setCe_cnt (s : State) (h : Word) (l : Word) : (s.setCe h l).cnt = s.cnt := rfl
@[simp] theorem State.setCe_lcr (s : State) (h : Word) (l : Word) : (s.setCe h l).lcr = s.lcr := rfl
@[simp] theorem State.setCe_scr (s : State) (h : Word) (l : Word) : (s.setCe h l).scr = s.scr := rfl
@[simp] theorem State.setCe_psr (s : State) (h : Word) (l : Word) : (s.setCe h l).psr = s.psr := rfl
@[simp] theorem State.setCe_cond (s : State) (h : Word) (l : Word) : (s.setCe h l).cond = s.cond := rfl
@[simp] theorem State.setCe_ecr (s : State) (h : Word) (l : Word) : (s.setCe h l).ecr = s.ecr := rfl
@[simp] theorem State.setCe_excpVec (s : State) (h : Word) (l : Word) : (s.setCe h l).excpVec = s.excpVec := rfl
@[simp] theorem State.setCe_ccr (s : State) (h : Word) (l : Word) : (s.setCe h l).ccr = s.ccr := rfl
@[simp] theorem State.setCe_epc (s : State) (h : Word) (l : Word) : (s.setCe h l).epc = s.epc := rfl
@[simp] theorem State.setCe_ema (s : State) (h : Word) (l : Word) : (s.setCe h l).ema = s.ema := rfl
@[simp] theorem State.setCe_limpfn (s : State) (h : Word) (l : Word) : (s.setCe h l).limpfn = s.limpfn := rfl
@[simp] theorem State.setCe_ldmpfn (s : State) (h : Word) (l : Word) : (s.setCe h l).ldmpfn = s.ldmpfn := rfl
@[simp] theorem State.setCe_dreg (s : State) (h : Word) (l : Word) : (s.setCe h l).dreg = s.dreg := rfl
@[simp] theorem State.setCe_depc (s : State) (h : Word) (l : Word) : (s.setCe h l).depc = s.depc := rfl
@[simp] theorem State.setCe_dsave (s : State) (h : Word) (l : Word) : (s.setCe h l).dsave = s.dsave := rfl
@[simp] theorem State.setCe_ibrk (s : State) (h : Word) (l : Word) : (s.setCe h l).ibrk = s.ibrk := rfl
@[simp] theorem State.setCe_dbrk (s : State) (h : Word) (l : Word) : (s.setCe h l).dbrk = s.dbrk := rfl
@[simp] theorem State.setCe_cop1 (s : State) (h : Word) (l : Word) : (s.setCe h l).cop1 = s.cop1 := rfl
@[simp] theorem State.setCe_cop2 (s : State) (h : Word) (l : Word) : (s.setCe h l).cop2 = s.cop2 := rfl
@[simp] theorem State.setCe_cop3 (s : State) (h : Word) (l : Word) : (s.setCe h l).cop3 = s.cop3 := rfl
@[simp] theorem State.setCe_atbit (s : State) (h : Word) (l : Word) : (s.setCe h l).atbit = s.atbit := rfl
@[simp] theorem State.setCe_sleeping (s : State) (h : Word) (l : Word) : (s.setCe h l).sleeping = s.sleeping := rfl
@[simp] theorem State.setCe_stepped (s : State) (h : Word) (l : Word) : (s.setCe h l).stepped = s.stepped := rfl
@[simp] theorem State.setCe_ddblvPending (s : State) (h : Word) (l : Word) : (s.setCe h l).ddblvPending = s.ddblvPending := rfl
@[simp] theorem State.setCe_nmiPending (s : State) (h : Word) (l : Word) : (s.setCe h l).nmiPending = s.nmiPending := rfl
@[simp] theorem State.setCe_busErrPending (s : State) (h : Word) (l : Word) : (s.setCe h l).busErrPending = s.busErrPending := rfl
@[simp] theorem State.setCe_mem (s : State) (h : Word) (l : Word) : (s.setCe h l).mem = s.mem := rfl
@[simp] theorem State.setCe_wbuf (s : State) (h : Word) (l : Word) : (s.setCe h l).wbuf = s.wbuf := rfl
@[simp] theorem State.setCe_icache (s : State) (h : Word) (l : Word) : (s.setCe h l).icache = s.icache := rfl
@[simp] theorem State.setCe_dcache (s : State) (h : Word) (l : Word) : (s.setCe h l).dcache = s.dcache := rfl
@[simp] theorem State.setCe_pce (s : State) (h : Word) (l : Word) : (s.setCe h l).pce = s.pce := rfl
@[simp] theorem State.setCe_raised (s : State) (h : Word) (l : Word) : (s.setCe h l).raised = s.raised := rfl
@[simp] theorem State.setCe_freeCtr (s : State) (h : Word) (l : Word) : (s.setCe h l).freeCtr = s.freeCtr := rfl
@[simp] theorem State.setCe_inputs (s : State) (h : Word) (l : Word) : (s.setCe h l).inputs = s.inputs := rfl
@[simp] theorem State.setCe_cfg (s : State) (h : Word) (l : Word) : (s.setCe h l).cfg = s.cfg := rfl
@[simp] theorem State.r_setCe (s : State) (h : Word) (l : Word) (j : BitVec 5) : (s.setCe h l).r j = s.r j := rfl
@[simp] theorem State.setCe_flags (s : State) (h : Word) (l : Word) : (s.setCe h l).flags = s.flags := rfl

@[simp] theorem State.freeCe_gpr (s : State) : s.freeCe.gpr = s.gpr := rfl
@[simp] theorem State.freeCe_pc (s : State) : s.freeCe.pc = s.pc := rfl
@[simp] theorem State.freeCe_cnt (s : State) : s.freeCe.cnt = s.cnt := rfl
@[simp] theorem State.freeCe_lcr (s : State) : s.freeCe.lcr = s.lcr := rfl
@[simp] theorem State.freeCe_scr (s : State) : s.freeCe.scr = s.scr := rfl
@[simp] theorem State.freeCe_psr (s : State) : s.freeCe.psr = s.psr := rfl
@[simp] theorem State.freeCe_cond (s : State) : s.freeCe.cond = s.cond := rfl
@[simp] theorem State.freeCe_ecr (s : State) : s.freeCe.ecr = s.ecr := rfl
@[simp] theorem State.freeCe_excpVec (s : State) : s.freeCe.excpVec = s.excpVec := rfl
@[simp] theorem State.freeCe_ccr (s : State) : s.freeCe.ccr = s.ccr := rfl
@[simp] theorem State.freeCe_epc (s : State) : s.freeCe.epc = s.epc := rfl
@[simp] theorem State.freeCe_ema (s : State) : s.freeCe.ema = s.ema := rfl
@[simp] theorem State.freeCe_limpfn (s : State) : s.freeCe.limpfn = s.limpfn := rfl
@[simp] theorem State.freeCe_ldmpfn (s : State) : s.freeCe.ldmpfn = s.ldmpfn := rfl
@[simp] theorem State.freeCe_dreg (s : State) : s.freeCe.dreg = s.dreg := rfl
@[simp] theorem State.freeCe_depc (s : State) : s.freeCe.depc = s.depc := rfl
@[simp] theorem State.freeCe_dsave (s : State) : s.freeCe.dsave = s.dsave := rfl
@[simp] theorem State.freeCe_ibrk (s : State) : s.freeCe.ibrk = s.ibrk := rfl
@[simp] theorem State.freeCe_dbrk (s : State) : s.freeCe.dbrk = s.dbrk := rfl
@[simp] theorem State.freeCe_cop1 (s : State) : s.freeCe.cop1 = s.cop1 := rfl
@[simp] theorem State.freeCe_cop2 (s : State) : s.freeCe.cop2 = s.cop2 := rfl
@[simp] theorem State.freeCe_cop3 (s : State) : s.freeCe.cop3 = s.cop3 := rfl
@[simp] theorem State.freeCe_atbit (s : State) : s.freeCe.atbit = s.atbit := rfl
@[simp] theorem State.freeCe_sleeping (s : State) : s.freeCe.sleeping = s.sleeping := rfl
@[simp] theorem State.freeCe_stepped (s : State) : s.freeCe.stepped = s.stepped := rfl
@[simp] theorem State.freeCe_ddblvPending (s : State) : s.freeCe.ddblvPending = s.ddblvPending := rfl
@[simp] theorem State.freeCe_nmiPending (s : State) : s.freeCe.nmiPending = s.nmiPending := rfl
@[simp] theorem State.freeCe_busErrPending (s : State) : s.freeCe.busErrPending = s.busErrPending := rfl
@[simp] theorem State.freeCe_mem (s : State) : s.freeCe.mem = s.mem := rfl
@[simp] theorem State.freeCe_wbuf (s : State) : s.freeCe.wbuf = s.wbuf := rfl
@[simp] theorem State.freeCe_icache (s : State) : s.freeCe.icache = s.icache := rfl
@[simp] theorem State.freeCe_dcache (s : State) : s.freeCe.dcache = s.dcache := rfl
@[simp] theorem State.freeCe_pce (s : State) : s.freeCe.pce = s.pce := rfl
@[simp] theorem State.freeCe_raised (s : State) : s.freeCe.raised = s.raised := rfl
@[simp] theorem State.freeCe_inputs (s : State) : s.freeCe.inputs = s.inputs := rfl
@[simp] theorem State.freeCe_cfg (s : State) : s.freeCe.cfg = s.cfg := rfl
@[simp] theorem State.r_freeCe (s : State) (j : BitVec 5) : s.freeCe.r j = s.r j := rfl
@[simp] theorem State.freeCe_flags (s : State) : s.freeCe.flags = s.flags := rfl

@[simp] theorem State.setFlags_flags (s : State) (f : Flags) : (s.setFlags f).flags = f := rfl
@[simp] theorem State.jump_pc (s : State) (a : Word) : (s.jump a).pc = a := rfl
@[simp] theorem State.advance_pc (s : State) (w : Width) : (s.advance w).pc = s.npc w := rfl
@[simp] theorem State.setCe_ceh (s : State) (h l : Word) : (s.setCe h l).ceh = h := rfl
@[simp] theorem State.setCe_cel (s : State) (h l : Word) : (s.setCe h l).cel = l := rfl

end Sys2Proof.Machine
end

