-- ==== Sys2Proof/Laws/WriteBuffer.lean ====
section
/-!
SUPPORT. What the write buffer does, said once: draining keeps the bytes behind the cache, a store that joins the buffer adds
its bytes to them, and the buffer never holds more than it can.
-/
namespace Sys2Proof.Machine

/-! ## Bytes that reach memory -/

theorem Memory.wf_putCells {m : Memory} (hm : m.wf = true) (cs : List (Word × Byte)) : (m.putCells cs).wf = true := by
  induction cs generalizing m with
  | nil => exact hm
  | cons c cs ih => exact ih (Memory.wf_set hm _ _)

theorem Memory.inRange_putCells {m : Memory} (hm : m.inRange = true) (cs : List (Word × Byte)) :
    (m.putCells cs).inRange = true := by
  induction cs generalizing m with
  | nil => exact hm
  | cons c cs ih => exact ih (Memory.inRange_set hm c.1.isLt)

/-- Bytes given by their addresses are what memory then reads as, and the others stay. -/
theorem Memory.get_putCells {m : Memory} (hm : m.wf = true) (bs : List Word) (f : Word → Byte) (c : Word) :
    (m.putCells (bs.map fun b => (b, f b))).get c.toNat = if c ∈ bs then f c else m.get c.toNat := by
  induction bs generalizing m with
  | nil => simp [Memory.putCells]
  | cons b bs ih =>
    simp only [List.map_cons, Memory.putCells, ih (Memory.wf_set hm _ _), Memory.get_set hm, BitVec.toNat_inj,
      List.mem_cons]
    by_cases h : c = b <;> by_cases h' : c ∈ bs <;> simp_all

@[simp] theorem Memory.putStores_nil (m : Memory) : m.putStores [] = m := rfl

@[simp] theorem Memory.putStores_cons (m : Memory) (e : BufferedStore) (es : List BufferedStore) :
    m.putStores (e :: es) = (m.putCells e.cells).putStores es := rfl

@[simp] theorem Memory.putStores_append (m : Memory) (es fs : List BufferedStore) :
    m.putStores (es ++ fs) = (m.putStores es).putStores fs := by
  simp [Memory.putStores]

theorem Memory.wf_putStores {m : Memory} (hm : m.wf = true) (es : List BufferedStore) : (m.putStores es).wf = true := by
  induction es generalizing m with
  | nil => exact hm
  | cons e es ih => exact ih (Memory.wf_putCells hm _)

theorem Memory.inRange_putStores {m : Memory} (hm : m.inRange = true) (es : List BufferedStore) :
    (m.putStores es).inRange = true := by
  induction es generalizing m with
  | nil => exact hm
  | cons e es ih => exact ih (Memory.inRange_putCells hm _)

theorem State.wf_dataMem {s : State} (hm : s.mem.wf = true) : s.dataMem.wf = true := Memory.wf_putStores hm _

/-- With an empty buffer the bytes behind the cache are memory's. -/
theorem State.dataMem_of_nil {s : State} (h : s.wbuf = []) : s.dataMem = s.mem := by
  simp [State.dataMem, h]

/-! ## Draining -/

/-- Draining keeps the bytes behind the cache. -/
@[simp] theorem State.dataMem_drain (s : State) (n : Nat) : (s.drain n).dataMem = s.dataMem := by
  simp [State.drain, State.dataMem, ← Memory.putStores_append]

@[simp] theorem State.drainAll_wbuf (s : State) : s.drainAll.wbuf = [] := rfl

@[simp] theorem State.drainAll_mem (s : State) : s.drainAll.mem = s.dataMem := rfl

@[simp] theorem State.dataMem_drainAll (s : State) : s.drainAll.dataMem = s.dataMem := rfl

/-- What a free drain leaves: some of the oldest stores have reached memory. -/
theorem State.drainSome_eq (s : State) : ∃ n k, s.drainSome = { s.drain n with freeCtr := k } := by
  unfold State.drainSome
  split
  · next h => exact ⟨0, s.freeCtr, by simp only [State.drain, List.take_zero, List.drop_zero, Memory.putStores_nil]⟩
  · exact ⟨_, _, rfl⟩

/-- An empty buffer has nothing to give up. -/
theorem State.drainSome_of_nil {s : State} (h : s.wbuf = []) : s.drainSome = s := by
  unfold State.drainSome
  simp [h]

/-- What a load that may not bypass leaves: the buffer as it was, or drained. -/
theorem State.waitDrain_eq (s : State) : ∃ m b, s.waitDrain = { s with mem := m, wbuf := b } := by
  unfold State.waitDrain
  split
  · exact ⟨_, _, rfl⟩
  · exact ⟨s.mem, s.wbuf, rfl⟩

@[simp] theorem State.dataMem_waitDrain (s : State) : s.waitDrain.dataMem = s.dataMem := by
  unfold State.waitDrain
  split <;> rfl

/-! ## A store that waits -/

/-- A store that joins the buffer adds its bytes to those behind the cache. -/
theorem State.dataMem_pushStore (s : State) (cs : List (Word × Byte)) :
    (s.pushStore cs).dataMem = s.dataMem.putCells cs := by
  unfold State.pushStore
  simp only
  split
  · next h => rw [h]; rfl
  · show ((s.drain _).mem).putStores ((s.drain _).wbuf ++ [⟨cs⟩]) = _
    rw [Memory.putStores_append]
    show ((s.drain _).dataMem).putCells cs = _
    rw [State.dataMem_drain]

/-- A store that joins the buffer changes the buffer and memory only. -/
theorem State.pushStore_eq (s : State) (cs : List (Word × Byte)) :
    ∃ m b, s.pushStore cs = { s with mem := m, wbuf := b } := by
  unfold State.pushStore State.drain
  simp only
  split
  · exact ⟨s.mem, s.wbuf, rfl⟩
  · exact ⟨_, _, rfl⟩

/-- A store that has bytes for memory is the youngest of the buffer. -/
theorem State.pushStore_of_ne {s : State} {cs : List (Word × Byte)} (h : cs ≠ []) : s.pushStore cs =
    { s with
      mem := s.mem.putStores (s.wbuf.take (s.wbuf.length - 3))
      wbuf := s.wbuf.drop (s.wbuf.length - 3) ++ [⟨cs⟩] } := by
  simp [State.pushStore, h, State.drain, bufferWords]

/-- Memory keeps its form when stores reach it. -/
theorem State.drain_mem_ok {s : State} (h : s.mem.wf = true ∧ s.mem.inRange = true) (n : Nat) :
    (s.drain n).mem.wf = true ∧ (s.drain n).mem.inRange = true :=
  ⟨Memory.wf_putStores h.1 _, Memory.inRange_putStores h.2 _⟩

/-- What the buffer holds. -/
theorem State.bufferOk_iff (s : State) : s.bufferOk = true ↔
    s.wbuf.length ≤ 4 ∧ (∀ e ∈ s.wbuf, e.cells.length ≤ 4) ∧ (s.ccr.wb = false → s.wbuf = []) := by
  rw [State.bufferOk, bufferWords]
  simp only [Bool.and_eq_true, List.all_eq_true, decide_eq_true_iff, Bool.or_eq_true, List.isEmpty_iff, and_assoc]
  refine and_congr_right fun _ => and_congr_right fun _ => ?_
  cases s.ccr.wb <;> simp

theorem State.bufferOk_of_nil {s : State} (h : s.wbuf = []) : s.bufferOk = true := by
  simp [State.bufferOk_iff, h]

theorem State.bufferOk_drain {s : State} (h : s.bufferOk = true) (n : Nat) : (s.drain n).bufferOk = true := by
  rw [State.bufferOk_iff] at h ⊢
  simp only [State.drain, List.length_drop]
  exact ⟨by omega, fun e he => h.2.1 e (List.mem_of_mem_drop he), fun hw => by simp [h.2.2 hw]⟩

/-- A store of four bytes at most fits into the buffer. -/
theorem State.bufferOk_pushStore {s : State} (h : s.bufferOk = true) (hw : s.ccr.wb = true) {cs : List (Word × Byte)}
    (hc : cs.length ≤ 4) : (s.pushStore cs).bufferOk = true := by
  by_cases h0 : cs = []
  · simpa [State.pushStore, h0] using h
  rw [State.bufferOk_iff] at h ⊢
  rw [State.pushStore_of_ne h0]
  refine ⟨by simp; omega, fun e he => ?_, fun hf => by simp [hw] at hf⟩
  rcases List.mem_append.mp he with he | he
  · exact h.2.1 e (List.mem_of_mem_drop he)
  · rw [List.mem_singleton.mp he]; exact hc

/-! ## What a load sees -/

/-- A load's byte is decided by the D-cache's lines, the bytes behind it, and the configuration. -/
theorem State.readByte_congr {s t : State} (hm : t.dataMem = s.dataMem) (hd : t.dcache.lines = s.dcache.lines)
    (hc : t.cfg = s.cfg) (a : Word) : t.readByte a = s.readByte a := by
  simp only [State.readByte, State.cacheable, State.dGeometry, Cache.byte?, hm, hd, hc]
  rfl

end Sys2Proof.Machine
end

