-- ==== Sys2Proof/Laws/Access.lean ====
section
/-!
SUPPORT. What an access can do, said once: the bytes a store changes, what a load and a store leave alone, that both keep
the invariant, and the outcomes of `loadThen` and `storeThen`.
-/
namespace Sys2Proof.Machine

/-! ## The invariant as a proposition -/

/-- A base address is cacheable. -/
def State.CacheableBase (s : State) (b : Nat) : Prop := s.cacheable (BitVec.ofNat 32 b) = true

theorem distinctLines_iff {ls : List CacheLine} :
    distinctLines ls = true ↔ ls.Pairwise fun k l => k.base ≠ l.base := by
  induction ls with
  | nil => simp [distinctLines]
  | cons e es ih =>
    simp only [distinctLines, Bool.and_eq_true, ih, List.pairwise_cons, List.all_eq_true, decide_eq_true_eq]
    exact and_congr_left fun _ => ⟨fun h l hl => Ne.symm (h l hl), fun h l hl => Ne.symm (h l hl)⟩

/-- The parts of the invariant. -/
structure WfParts (s : State) : Prop where
  data : DataOk s.CacheableBase s.dcache.lines s.dataMem
  clean : ∀ l ∈ s.icache.lines, l.dirty = false
  mem : s.mem.wf = true ∧ s.mem.inRange = true
  buffer : s.bufferOk = true

theorem State.wf_iff (s : State) : s.Wf = true ↔ WfParts s := by
  simp only [State.Wf, Bool.and_eq_true, List.all_eq_true, distinctLines_iff, Bool.not_eq_true']
  constructor
  · rintro ⟨⟨⟨⟨⟨h1, h2⟩, h3⟩, h4⟩, h5⟩, h6⟩
    refine ⟨⟨State.wf_dataMem h1, Memory.inRange_putStores h2 _, fun l hl => ?_, fun l hl hd => ?_, h4⟩, h5, ⟨h1, h2⟩, h6⟩
    · have := h3 l hl
      simp only [State.lineOk, Bool.and_eq_true, decide_eq_true_eq] at this
      exact ⟨this.1.1.1.1, this.1.1.1.2, this.1.1.2, this.1.2⟩
    · have := h3 l hl
      simp only [State.lineOk, Bool.and_eq_true, hd, Bool.false_or, beq_iff_eq] at this
      exact this.2
  · rintro ⟨h, h5, ⟨h1, h2⟩, h6⟩
    refine ⟨⟨⟨⟨⟨h1, h2⟩, fun l hl => ?_⟩, h.distinct⟩, h5⟩, h6⟩
    obtain ⟨a1, a2, a3, a4⟩ := h.shape l hl
    simp only [State.lineOk, Bool.and_eq_true, decide_eq_true_eq, Bool.or_eq_true, beq_iff_eq]
    refine ⟨⟨⟨⟨a1, a2⟩, a3⟩, a4⟩, ?_⟩
    cases hd : l.dirty with
    | true => simp
    | false => right; exact h.clean l hl hd

/-- The invariant of a state whose buffer is empty. -/
theorem State.wf_of_nil {s : State} (hb : s.wbuf = []) (h : DataOk s.CacheableBase s.dcache.lines s.mem)
    (hi : ∀ l ∈ s.icache.lines, l.dirty = false) : s.Wf = true :=
  (State.wf_iff s).mpr ⟨by rwa [State.dataMem_of_nil hb], hi, ⟨h.wf, h.inRange⟩, State.bufferOk_of_nil hb⟩

/-- The invariant speaks of memory, the write buffer and its enable, the caches and the configuration only. -/
theorem State.wf_congr {s t : State} (hm : t.mem = s.mem) (hb : t.wbuf = s.wbuf) (hw : t.ccr.wb = s.ccr.wb)
    (hd : t.dcache.lines = s.dcache.lines) (hi : t.icache.lines = s.icache.lines) (hc : t.cfg = s.cfg)
    (h : s.Wf = true) : t.Wf = true := by
  rw [State.wf_iff] at h ⊢
  have h1 : t.CacheableBase = s.CacheableBase := by funext b; simp only [State.CacheableBase, State.cacheable, hc]
  have h2 : t.dataMem = s.dataMem := by simp only [State.dataMem, hm, hb]
  refine ⟨?_, ?_, ?_, ?_⟩
  · rw [h1, h2, hd]; exact h.data
  · rw [hi]; exact h.clean
  · rw [hm]; exact h.mem
  · have := h.buffer
    simp only [State.bufferOk, hb, hw] at this ⊢
    exact this

@[simp] theorem State.dGeometry_lineBytes (s : State) : s.dGeometry.lineBytes = 16 := rfl

theorem low4_mask (a : Word) : BitVec.ofNat 32 (a.toNat / 16 * 16) = a &&& 0xFFFFFFF0#32 := by
  have hm : ∀ i, i < 32 → (0xFFFFFFF0#32).getLsbD i = decide (4 ≤ i) := by decide
  apply BitVec.eq_of_getLsbD_eq
  intro i hi
  rw [BitVec.getLsbD_and, hm i hi, BitVec.getLsbD_ofNat]
  have h : a.toNat / 16 * 16 = (a.toNat >>> 4) <<< 4 := by
    rw [Nat.shiftRight_eq_div_pow, Nat.shiftLeft_eq]
  rw [h, Nat.testBit_shiftLeft, Nat.testBit_shiftRight]
  by_cases h4 : 4 ≤ i
  · have : 4 + (i - 4) = i := by omega
    simp [hi, h4, this, BitVec.getLsbD]
  · simp [h4]

/-- A line is cacheable as a whole (20_memory.md R101). -/
theorem State.cacheable_base (s : State) (a : Word) :
    s.cacheable (BitVec.ofNat 32 (s.dGeometry.base a.toNat)) = s.cacheable a := by
  have hb : s.dGeometry.base a.toNat = a.toNat / 16 * 16 := rfl
  have hd : debugSegment (BitVec.ofNat 32 (a.toNat / 16 * 16)) = debugSegment a := by
    simp only [debugSegment, BitVec.toNat_ofNat]
    have := a.isLt
    apply decide_eq_decide.mpr
    omega
  have hk : lineBlock (BitVec.ofNat 32 (a.toNat / 16 * 16)) = lineBlock a := by
    rw [lineBlock, lineBlock, low4_mask, BitVec.and_assoc]; rfl
  simp only [State.cacheable, resetBlock, hb, hd, hk]

theorem State.cacheableBase_base {s : State} {a : Word} (h : s.cacheable a = true) :
    s.CacheableBase (s.dGeometry.base a.toNat) := by
  simpa [State.CacheableBase, State.cacheable_base] using h

/-- The reset vector is uncached whatever the platform answers (92_eei_decisions.md D4). -/
theorem State.cacheable_reset (s : State) {a : Word} (h : resetBlock a = true) : s.cacheable a = false := by
  simp [State.cacheable, h]

/-- The debug segment is uncached whatever the platform answers (92_eei_decisions.md D4). -/
theorem State.cacheable_debug (s : State) {a : Word} (h : debugSegment a = true) : s.cacheable a = false := by
  simp [State.cacheable, h]

/-! ## Bytes -/

/-- A byte of a cache from its lines. -/
theorem Cache.byte?_eq (c : Cache) (g : Geometry) (a : Nat) :
    c.byte? g a = (findLine c.lines (g.base a)).bind fun l => l.data[a % g.lineBytes]? := by
  unfold Cache.byte?
  split <;> simp_all

theorem findLine_mapLine {f : CacheLine → CacheLine} (hf : ∀ l, (f l).base = l.base) (ls : List CacheLine)
    (b c : Nat) : findLine (mapLine f ls b) c = if c = b then (findLine ls c).map f else findLine ls c := by
  induction ls with
  | nil => simp [mapLine, findLine]
  | cons e es ih =>
    unfold mapLine
    split
    · next he =>
      simp only [findLine, hf]
      by_cases hc : c = b
      · simp [hc, he]
      · have : e.base ≠ c := fun h => hc (h.symm.trans he)
        simp [hc, this]
    · next he =>
      simp only [findLine, ih]
      by_cases hec : e.base = c
      · have : c ≠ b := fun h => he (hec.trans h)
        simp [hec, this]
      · simp [hec]

/-- The byte a cache holds after one byte of a line was written. -/
theorem byte?_mapLine_setByte (ls : List CacheLine) (mru : List Nat) (g : Geometry) (a c : Nat) (v : Byte)
    (d : Bool) (hg : 0 < g.lineBytes) :
    (Cache.mk (mapLine (fun l => l.setByte (a % g.lineBytes) v d) ls (g.base a)) mru).byte? g c =
      if c = a then ((Cache.mk ls mru).byte? g c).map fun _ => v else (Cache.mk ls mru).byte? g c := by
  have hcases : c = a ↔ g.base c = g.base a ∧ c % g.lineBytes = a % g.lineBytes := by
    constructor
    · rintro rfl; exact ⟨rfl, rfl⟩
    · rintro ⟨h1, h2⟩
      simp only [Geometry.base] at h1
      have e1 := Nat.div_add_mod c g.lineBytes
      have e2 := Nat.div_add_mod a g.lineBytes
      rw [Nat.mul_comm] at e1 e2
      omega
  simp only [Cache.byte?_eq]
  rw [findLine_mapLine (f := fun l => l.setByte (a % g.lineBytes) v d) (fun _ => rfl)]
  by_cases hb : g.base c = g.base a
  · rw [if_pos hb]
    cases hfl : findLine ls (g.base c) with
    | none => simp
    | some l =>
      simp only [Option.map_some, Option.bind_some, CacheLine.setByte, List.getElem?_set]
      by_cases hm : a % g.lineBytes = c % g.lineBytes
      · rw [if_pos hm, if_pos (hcases.mpr ⟨hb, hm.symm⟩)]
        split
        · next hlt => simp [← hm, List.getElem?_eq_getElem hlt]
        · next hlt => simp [← hm, List.getElem?_eq_none (Nat.le_of_not_lt hlt)]
      · rw [if_neg hm, if_neg (fun h => hm (hcases.mp h).2.symm)]
  · rw [if_neg hb, if_neg (fun h => hb (hcases.mp h).1)]

/-- A store of one byte: that byte, and no other, is what a load then sees (20_memory.md R84). -/
theorem State.readByte_writeByte {s : State} (hm : s.mem.wf = true) (hn : s.wbuf = []) (a c : Word) (v : Byte) :
    (s.writeByte a v).readByte c = if c = a then v else s.readByte c := by
  have hdm : ∀ m d, ({ s with mem := m, dcache := d } : State).dataMem = m := fun m d =>
    State.dataMem_of_nil (s := { s with mem := m, dcache := d }) hn
  have hdm1 : ∀ m, ({ s with mem := m } : State).dataMem = m := fun m => State.dataMem_of_nil (s := { s with mem := m }) hn
  have hdm2 : s.dataMem = s.mem := State.dataMem_of_nil hn
  unfold State.writeByte
  by_cases hh : (s.cacheable a && (s.dcache.byte? s.dGeometry a.toNat).isSome) = true
  · rw [if_pos hh]
    simp only [Bool.and_eq_true] at hh
    have hmap := byte?_mapLine_setByte s.dcache.lines s.dcache.mru s.dGeometry a.toNat c.toNat v s.ccr.wback
      (by simp)
    simp only [State.readByte, hdm]
    change (if s.cacheable c = true then
      match (Cache.mk (mapLine _ s.dcache.lines (s.dGeometry.base a.toNat)) s.dcache.mru).byte? s.dGeometry c.toNat with
      | some v => v
      | none => _ else _) = _
    rw [hmap]
    by_cases hc : c = a
    · subst hc
      rw [if_pos rfl, if_pos hh.1, if_pos rfl]
      obtain ⟨w, hw⟩ := Option.isSome_iff_exists.mp hh.2
      change (match (s.dcache.byte? s.dGeometry c.toNat).map (fun _ => v) with
        | some v => v | none => _) = v
      rw [hw]; rfl
    · have hne : c.toNat ≠ a.toNat := fun h => hc (BitVec.eq_of_toNat_eq h)
      rw [if_neg hne, if_neg hc]
      have hmem : (if s.ccr.wback = true then s.mem else s.mem.set a.toNat v).get c.toNat = s.mem.get c.toNat := by
        split
        · rfl
        · rw [Memory.get_set hm, if_neg hne]
      rw [hmem] <;> rfl
  · rw [if_neg hh]
    simp only [State.readByte, hdm1]
    change (if s.cacheable c = true then
      match s.dcache.byte? s.dGeometry c.toNat with
      | some v => v
      | none => (s.mem.set a.toNat v).get c.toNat else (s.mem.set a.toNat v).get c.toNat) = _
    rw [Memory.get_set hm]
    by_cases hc : c = a
    · subst hc
      rw [if_pos rfl, if_pos rfl]
      split
      · next hca =>
        cases hb : s.dcache.byte? s.dGeometry c.toNat with
        | none => rfl
        | some w => simp [hca, hb] at hh
      · rfl
    · have hne : c.toNat ≠ a.toNat := fun h => hc (BitVec.eq_of_toNat_eq h)
      rw [if_neg hne, if_neg hc] <;> rfl

/-- A store of one byte keeps the canonical form. -/
theorem State.wf_mem_writeByte {s : State} (hm : s.mem.wf = true) (a : Word) (v : Byte) :
    (s.writeByte a v).mem.wf = true := by
  unfold State.writeByte
  split
  · show (if s.ccr.wback = true then s.mem else s.mem.set a.toNat v).wf = true
    split
    · exact hm
    · exact Memory.wf_set hm _ _
  · exact Memory.wf_set hm _ _

@[simp] theorem State.writeByte_wbuf (s : State) (a : Word) (v : Byte) : (s.writeByte a v).wbuf = s.wbuf := by
  unfold State.writeByte
  split <;> rfl

@[simp] theorem State.writeBytes_wbuf (s : State) (a : Word) (vs : List Byte) : (s.writeBytes a vs).wbuf = s.wbuf := by
  induction vs generalizing s a with
  | nil => rfl
  | cons v vs ih => simp [State.writeBytes, ih]

theorem State.wf_mem_writeBytes {s : State} (hm : s.mem.wf = true) (a : Word) (vs : List Byte) :
    (s.writeBytes a vs).mem.wf = true := by
  induction vs generalizing s a with
  | nil => exact hm
  | cons v vs ih => exact ih (State.wf_mem_writeByte hm a v) (a + 1#32)

/-- What a store of bytes leaves alone. -/
theorem State.readByte_writeBytes_other {s : State} (hm : s.mem.wf = true) (hn : s.wbuf = []) (a c : Word) (vs : List Byte)
    (h : ∀ k, k < vs.length → c ≠ a + BitVec.ofNat 32 k) : (s.writeBytes a vs).readByte c = s.readByte c := by
  induction vs generalizing s a with
  | nil => rfl
  | cons v vs ih =>
    simp only [State.writeBytes]
    rw [ih (State.wf_mem_writeByte hm a v) (by simpa using hn), State.readByte_writeByte hm hn, if_neg]
    · have := h 0 (by simp); simpa using this
    · intro k hk
      have := h (k + 1) (by simpa using hk)
      intro he
      apply this
      rw [he, BitVec.add_assoc]
      congr 1
      rw [Nat.add_comm, BitVec.ofNat_add]

/-- The bytes a store of bytes writes. -/
theorem State.readByte_writeBytes_at {s : State} (hm : s.mem.wf = true) (hn : s.wbuf = []) (a : Word) (vs : List Byte)
    (hl : vs.length ≤ 4) (k : Nat) (hk : k < vs.length) :
    (s.writeBytes a vs).readByte (a + BitVec.ofNat 32 k) = vs[k] := by
  induction vs generalizing s a k with
  | nil => simp at hk
  | cons v vs ih =>
    simp only [State.writeBytes]
    simp only [List.length_cons] at hl hk
    cases k with
    | zero =>
      rw [State.readByte_writeBytes_other (State.wf_mem_writeByte hm a v) (by simpa using hn),
        State.readByte_writeByte hm hn, if_pos]
      · rfl
      · simp
      · intro j hj he
        have h1 := congrArg BitVec.toNat he
        simp only [BitVec.toNat_add, BitVec.toNat_ofNat] at h1
        have := a.isLt
        omega
    | succ k =>
      have := ih (State.wf_mem_writeByte hm a v) (by simpa using hn) (a + 1#32) (by omega) k (by omega)
      rw [BitVec.add_assoc] at this
      have e : 1#32 + BitVec.ofNat 32 k = BitVec.ofNat 32 (k + 1) := by
        rw [Nat.add_comm k 1, BitVec.ofNat_add]
      rw [e] at this
      simpa using this

/-! ## The invariant under accesses -/

theorem DataOk.other_bytes {p : Nat → Prop} {m : Memory} (hm : m.wf = true) {l : CacheLine} (hl : LineShape p l)
    {a : Nat} {v : Byte} (h : l.base ≠ a / 16 * 16) : (m.set a v).getAll l.base 16 = m.getAll l.base 16 := by
  apply Memory.getAll_congr
  intro i hi
  have := hl.1
  rw [Memory.get_set hm, if_neg (by omega)]

/-- A store of one byte keeps the invariant. -/
theorem State.wf_writeByte {s : State} (h : s.Wf = true) (hn : s.wbuf = []) (a : Word) (v : Byte) :
    (s.writeByte a v).Wf = true := by
  rw [State.wf_iff] at h
  obtain ⟨h, hi, -, -⟩ := h
  rw [State.dataMem_of_nil hn] at h
  unfold State.writeByte
  split
  · next hh =>
    refine State.wf_of_nil hn ?_ hi
    change DataOk s.CacheableBase
      (mapLine (fun l => l.setByte (a.toNat % 16) v s.ccr.wback) s.dcache.lines (a.toNat / 16 * 16)) _
    have hsh : ∀ l ∈ s.dcache.lines, l.base = a.toNat / 16 * 16 →
        LineShape s.CacheableBase (l.setByte (a.toNat % 16) v s.ccr.wback) := fun l hl _ => by
      have := h.shape l hl
      exact ⟨this.1, this.2.1, by simpa [CacheLine.setByte] using this.2.2.1, this.2.2.2⟩
    by_cases hw : s.ccr.wback = true
    · simp only [hw, if_true] at hsh ⊢
      exact h.mapLine (f := fun l => l.setByte (a.toNat % 16) v true) (fun _ => rfl) h.wf h.inRange hsh
        (fun l _ _ hd => by simp [CacheLine.setByte] at hd) (fun _ _ _ => rfl)
    · have hw' : s.ccr.wback = false := by simpa using hw
      simp only [hw', Bool.false_eq_true, if_false] at hsh ⊢
      refine h.mapLine (f := fun l => l.setByte (a.toNat % 16) v false) (fun _ => rfl) (Memory.wf_set h.wf _ _) (Memory.inRange_set h.inRange a.isLt) hsh
        (fun l hl hb hd => ?_) (fun k hk hne => DataOk.other_bytes h.wf hk hne)
      have hd' : l.dirty = false := by simpa [CacheLine.setByte] using hd
      have hc := h.clean l hl hd'
      have hlen := (h.shape l hl).2.2.1
      apply List.ext_getElem (by simp [CacheLine.setByte, hlen])
      intro i h1 h2
      simp only [CacheLine.setByte, List.getElem_set, Memory.getElem_getAll, Memory.get_set h.wf]
      by_cases hia : a.toNat % 16 = i
      · rw [if_pos hia, if_pos (by omega)]
      · have hi16 : i < 16 := by simpa using h2
        rw [if_neg hia, if_neg (by omega)]
        have hi' : i < l.data.length := by omega
        have : l.data[i] = (s.mem.getAll l.base 16)[i]'(by simpa using hi16) := by
          simp only [← hc]
        rw [this, Memory.getElem_getAll, hb]
  · next hh =>
    refine State.wf_of_nil hn
      ⟨Memory.wf_set h.wf _ _, Memory.inRange_set h.inRange a.isLt, h.shape, fun l hl hd => ?_, h.distinct⟩ hi
    refine (h.clean l hl hd).trans (DataOk.other_bytes h.wf (h.shape l hl) ?_).symm
    intro hb
    have hca : s.cacheable a = true := by
      have := (h.shape l hl).2.2.2
      rw [State.CacheableBase, hb] at this
      rw [← State.cacheable_base]
      exact this
    apply hh
    rw [hca, Bool.true_and, Cache.byte?_eq]
    cases hfl : findLine s.dcache.lines (s.dGeometry.base a.toNat) with
    | none => exact absurd hb (findLine_none hfl l hl)
    | some k =>
      have hk := (h.shape k (findLine_some hfl).1).2.2.1
      have : a.toNat % 16 < k.data.length := by omega
      simp [this]

theorem State.wf_writeBytes {s : State} (h : s.Wf = true) (hn : s.wbuf = []) (a : Word) (vs : List Byte) :
    (s.writeBytes a vs).Wf = true := by
  induction vs generalizing s a with
  | nil => exact h
  | cons v vs ih => exact ih (State.wf_writeByte h hn a v) (by simpa using hn) (a + 1#32)

/-! ## The write buffer under accesses -/

theorem State.wf_drain {s : State} (h : s.Wf = true) (n : Nat) : (s.drain n).Wf = true := by
  rw [State.wf_iff] at h ⊢
  exact ⟨by rw [State.dataMem_drain]; exact h.data, h.clean, State.drain_mem_ok h.mem n, State.bufferOk_drain h.buffer n⟩

theorem State.wf_drainAll {s : State} (h : s.Wf = true) : s.drainAll.Wf = true := by
  rw [State.wf_iff] at h
  exact State.wf_of_nil rfl h.data h.clean

/-- What leaves the buffer by itself keeps the invariant. -/
theorem State.wf_drainSome {s : State} (h : s.Wf = true) : s.drainSome.Wf = true := by
  obtain ⟨n, k, e⟩ := s.drainSome_eq
  rw [e]
  exact State.wf_congr (s := s.drain n) rfl rfl rfl rfl rfl rfl (State.wf_drain h n)

theorem State.wf_waitDrain {s : State} (h : s.Wf = true) : s.waitDrain.Wf = true := by
  unfold State.waitDrain
  split
  · exact State.wf_drainAll h
  · exact h

/-- A store of a byte leaves the lines the D-cache holds. -/
theorem State.writesBack_writeByte (s : State) (a b : Word) (v : Byte) :
    (s.writeByte a v).writesBack b = s.writesBack b := by
  unfold State.writeByte
  split
  · have hmap := byte?_mapLine_setByte s.dcache.lines s.dcache.mru s.dGeometry a.toNat b.toNat v s.ccr.wback (by simp)
    have : ((Cache.mk (mapLine (fun l => l.setByte (a.toNat % s.dGeometry.lineBytes) v s.ccr.wback) s.dcache.lines
        (s.dGeometry.base a.toNat)) s.dcache.mru).byte? s.dGeometry b.toNat).isSome =
        (s.dcache.byte? s.dGeometry b.toNat).isSome := by
      rw [hmap]
      split
      · exact Option.isSome_map
      · rfl
    simp only [State.writesBack]
    exact congrArg₂ _ (congrArg₂ _ rfl this) rfl
  · rfl

/-- The bytes that a store sends to memory do not change on the way. -/
theorem State.memCells_writeByte (s : State) (a b : Word) (v : Byte) (vs : List Byte) :
    (s.writeByte a v).memCells b vs = s.memCells b vs := by
  induction vs generalizing b with
  | nil => rfl
  | cons w vs ih => simp only [State.memCells, State.writesBack_writeByte, ih]

theorem State.mem_writeByte (s : State) (a : Word) (v : Byte) :
    (s.writeByte a v).mem = if s.writesBack a then s.mem else s.mem.set a.toNat v := by
  unfold State.writeByte State.writesBack
  split
  · next h => simp [h]
  · next h => simp [h]

/-- What a store does to memory when there is no buffer: its bytes, but those that a line takes. -/
theorem State.mem_writeBytes (s : State) (a : Word) (vs : List Byte) :
    (s.writeBytes a vs).mem = s.mem.putCells (s.memCells a vs) := by
  induction vs generalizing s a with
  | nil => rfl
  | cons v vs ih =>
    simp only [State.writeBytes, State.memCells, ih, State.mem_writeByte, State.memCells_writeByte]
    split <;> rfl

theorem State.memCells_drainAll (s : State) (a : Word) (vs : List Byte) : s.drainAll.memCells a vs = s.memCells a vs := by
  induction vs generalizing a with
  | nil => rfl
  | cons v vs ih =>
    simp only [State.memCells, ih]
    rfl

/-- What a store does behind the cache: the same with and without the buffer. -/
theorem State.dataMem_storeBytes (s : State) (a : Word) (vs : List Byte) :
    (s.storeBytes a vs).dataMem = (s.drainAll.writeBytes a vs).mem := by
  unfold State.storeBytes
  simp only
  split
  · rw [State.dataMem_pushStore, State.mem_writeBytes, State.memCells_drainAll]
    rfl
  · exact State.dataMem_of_nil (by simp)

/-- What a store does to the D-cache: the same with and without the buffer. -/
theorem State.dcache_storeBytes (s : State) (a : Word) (vs : List Byte) :
    (s.storeBytes a vs).dcache = (s.drainAll.writeBytes a vs).dcache := by
  unfold State.storeBytes
  simp only
  split
  · obtain ⟨m, b, h⟩ := State.pushStore_eq { s with dcache := (s.drainAll.writeBytes a vs).dcache } (s.memCells a vs)
    rw [h]
  · rfl

theorem State.writeByte_eq (s : State) (a : Word) (v : Byte) :
    ∃ m d, s.writeByte a v = { s with mem := m, dcache := d } := by
  unfold State.writeByte
  split
  · exact ⟨_, _, rfl⟩
  · exact ⟨_, s.dcache, rfl⟩

theorem State.writeBytes_eq (s : State) (a : Word) (vs : List Byte) :
    ∃ m d, s.writeBytes a vs = { s with mem := m, dcache := d } := by
  induction vs generalizing s a with
  | nil => exact ⟨s.mem, s.dcache, rfl⟩
  | cons v vs ih =>
    obtain ⟨m, d, h⟩ := s.writeByte_eq a v
    obtain ⟨m', d', h'⟩ := ih (s.writeByte a v) (a + 1#32)
    exact ⟨m', d', by rw [State.writeBytes, h', h]⟩

/-- A store changes memory, the buffer and the D-cache only. -/
theorem State.storeBytes_eq (s : State) (a : Word) (vs : List Byte) :
    ∃ m b d, s.storeBytes a vs = { s with mem := m, wbuf := b, dcache := d } := by
  unfold State.storeBytes
  simp only
  split
  · obtain ⟨m, b, h⟩ := State.pushStore_eq { s with dcache := (s.drainAll.writeBytes a vs).dcache } (s.memCells a vs)
    exact ⟨m, b, _, h⟩
  · obtain ⟨m, d, h⟩ := s.drainAll.writeBytes_eq a vs
    exact ⟨m, [], d, h⟩

/-- The byte a load sees after a store: the same with and without the buffer. -/
theorem State.readByte_storeBytes (s : State) (a b : Word) (vs : List Byte) :
    (s.storeBytes a vs).readByte b = (s.drainAll.writeBytes a vs).readByte b := by
  refine State.readByte_congr ?_ (by rw [State.dcache_storeBytes]) ?_ b
  · rw [State.dataMem_storeBytes, State.dataMem_of_nil (by simp)]
  · obtain ⟨m, x, d, h⟩ := s.storeBytes_eq a vs
    obtain ⟨m', d', h'⟩ := s.drainAll.writeBytes_eq a vs
    rw [h, h']
    rfl

/-- Draining the buffer changes no byte a load sees. -/
theorem State.readByte_drainAll (s : State) (b : Word) : s.drainAll.readByte b = s.readByte b :=
  State.readByte_congr rfl rfl rfl b

theorem State.readByte_drainSome (s : State) (b : Word) : s.drainSome.readByte b = s.readByte b := by
  obtain ⟨n, k, e⟩ := s.drainSome_eq
  rw [e]
  exact State.readByte_congr (s.dataMem_drain n) rfl rfl b

/-- What a store leaves alone. -/
theorem State.readByte_storeBytes_other {s : State} (hm : s.mem.wf = true) (a c : Word) (vs : List Byte)
    (h : ∀ k, k < vs.length → c ≠ a + BitVec.ofNat 32 k) : (s.storeBytes a vs).readByte c = s.readByte c := by
  rw [State.readByte_storeBytes, State.readByte_writeBytes_other (State.wf_dataMem hm) rfl a c vs h,
    State.readByte_drainAll]

/-- The bytes a store writes. -/
theorem State.readByte_storeBytes_at {s : State} (hm : s.mem.wf = true) (a : Word) (vs : List Byte)
    (hl : vs.length ≤ 4) (k : Nat) (hk : k < vs.length) :
    (s.storeBytes a vs).readByte (a + BitVec.ofNat 32 k) = vs[k] := by
  rw [State.readByte_storeBytes, State.readByte_writeBytes_at (State.wf_dataMem hm) rfl a vs hl k hk]

theorem State.memCells_length (s : State) (a : Word) (vs : List Byte) : (s.memCells a vs).length ≤ vs.length := by
  induction vs generalizing a with
  | nil => rfl
  | cons v vs ih =>
    have := ih (a + 1#32)
    unfold State.memCells
    split <;> simp only [List.length_cons] <;> omega

/-- A store of a word at most keeps the invariant. -/
theorem State.wf_storeBytes {s : State} (h : s.Wf = true) (a : Word) (vs : List Byte) (hl : vs.length ≤ 4) :
    (s.storeBytes a vs).Wf = true := by
  have ht := State.wf_writeBytes (State.wf_drainAll h) rfl a vs
  have hp := (State.wf_iff _).mp ht
  have hm := (State.wf_iff s).mp h
  have hd := State.dataMem_storeBytes s a vs
  have hc := State.dcache_storeBytes s a vs
  obtain ⟨m', d', e'⟩ := s.drainAll.writeBytes_eq a vs
  unfold State.storeBytes at hd hc ⊢
  simp only at hd hc ⊢
  split at hd
  · next hw =>
    simp only [hw, if_true] at hc ⊢
    rw [State.wf_iff]
    obtain ⟨m, b, e⟩ := State.pushStore_eq { s with dcache := (s.drainAll.writeBytes a vs).dcache } (s.memCells a vs)
    have hbc : (State.pushStore { s with dcache := (s.drainAll.writeBytes a vs).dcache } (s.memCells a vs)).CacheableBase
        = (s.drainAll.writeBytes a vs).CacheableBase := by
      rw [e, e']; rfl
    refine ⟨?_, ?_, ?_, ?_⟩
    · rw [hd, hc, hbc]
      have := hp.data
      rwa [State.dataMem_of_nil (by simp)] at this
    · rw [e]; exact hm.clean
    · unfold State.pushStore
      simp only
      split
      · exact hm.mem
      · exact State.drain_mem_ok hm.mem _
    · exact State.bufferOk_pushStore (s := { s with dcache := (s.drainAll.writeBytes a vs).dcache }) hm.buffer hw
        ((s.memCells_length a vs).trans hl)
  · next hw => simpa [hw] using ht

/-- A store keeps the canonical form of memory. -/
theorem State.wf_mem_storeBytes {s : State} (hm : s.mem.wf = true) (a : Word) (vs : List Byte) :
    (s.storeBytes a vs).mem.wf = true := by
  unfold State.storeBytes State.pushStore State.drain
  simp only
  split
  · split
    · exact hm
    · exact Memory.wf_putStores hm _
  · exact State.wf_mem_writeBytes (State.wf_dataMem hm) a vs

/-- The bytes of a store that go to memory, by their addresses. -/
theorem State.memCells_eq (s : State) (f : Word → Byte) (a : Word) (vs : List Byte)
    (h : ∀ k (hk : k < vs.length), f (a + BitVec.ofNat 32 k) = vs[k]) :
    s.memCells a vs = (s.memoryAddrs a vs.length).map fun b => (b, f b) := by
  induction vs generalizing a with
  | nil => rfl
  | cons v vs ih =>
    have hk : ∀ k : Nat, a + BitVec.ofNat 32 (k + 1) = a + 1#32 + BitVec.ofNat 32 k := by
      intro k
      rw [BitVec.add_assoc, Nat.add_comm, BitVec.ofNat_add]
    have hi := ih (a + 1#32) fun k hk' => by
      have := h (k + 1) (by simpa using hk')
      rw [hk] at this
      simpa using this
    have h0 : f a = v := by
      have := h 0 (by simp)
      rwa [BitVec.add_zero] at this
    have hs : s.memoryAddrs a (v :: vs).length =
        (if s.writesBack a then [] else [a]) ++ s.memoryAddrs (a + 1#32) vs.length := by
      simp only [State.memoryAddrs, List.length_cons, List.range_succ_eq_map, List.map_cons, List.map_map,
        List.filter_cons, BitVec.add_zero]
      have : (List.range vs.length).map ((fun k => a + BitVec.ofNat 32 k) ∘ Nat.succ) =
          (List.range vs.length).map fun k => a + 1#32 + BitVec.ofNat 32 k := List.map_congr_left fun k _ => hk k
      rw [this]
      cases s.writesBack a <;> rfl
    rw [State.memCells, hi, hs]
    cases s.writesBack a <;> simp [h0]

/-- Where the bytes of a store go. -/
theorem State.storeBuffer_storeBytes {s : State} (hm : s.mem.wf = true) (a : Word) (vs : List Byte)
    (hl : vs.length ≤ 4) : StoreBuffer a vs.length s (s.storeBytes a vs) := by
  have hcells := s.memCells_eq (s.storeBytes a vs).readByte a vs fun k hk => State.readByte_storeBytes_at hm a vs hl k hk
  refine ⟨fun hw => ?_, fun hw hn => ?_, fun hw hn => ?_⟩
  · have e : s.storeBytes a vs = s.drainAll.writeBytes a vs := by simp [State.storeBytes, hw]
    have e' : (s.storeBytes a vs).mem = s.dataMem.putCells (s.memCells a vs) := by
      rw [e, State.mem_writeBytes, State.memCells_drainAll]
      rfl
    refine ⟨by rw [e]; simp, fun b => ?_⟩
    rw [e', hcells, Memory.get_putCells (State.wf_dataMem hm)]
  · have : s.memCells a vs = [] := by rw [hcells, hn]; rfl
    simp only [State.storeBytes, hw, if_true, this]
    exact ⟨rfl, rfl⟩
  · have hne : s.memCells a vs ≠ [] := by rw [hcells]; simpa using hn
    have hst : s.storeBytes a vs =
        State.pushStore { s with dcache := (s.drainAll.writeBytes a vs).dcache } (s.memCells a vs) := by
      simp [State.storeBytes, hw]
    rw [State.pushStore_of_ne hne] at hst
    simp only
    rw [← hcells, hst]
    refine ⟨fun h4 => ?_, fun d ds hd h3 => ?_⟩
    · simp [show s.wbuf.length - 3 = 0 by omega]
    · simp [hd, h3]

/-! ## Loads -/

/-- The D-cache and the bytes behind it after a fill that writes nothing to memory if it loses no dirty line. -/
theorem State.dataMem_setFill {s : State} {x : Cache × Memory}
    (h : s.dcache.losesDirty x.1 = false → x.2 = s.dataMem) : (s.setFill x).dataMem = x.2 := by
  unfold State.setFill
  split
  · rfl
  · next hl => exact (h (by simpa using hl)).symm

@[simp] theorem State.dcache_setFill (s : State) (x : Cache × Memory) : (s.setFill x).dcache = x.1 := by
  unfold State.setFill
  split <;> rfl

theorem State.setFill_eq (s : State) (x : Cache × Memory) :
    ∃ m b d, s.setFill x = { s with mem := m, wbuf := b, dcache := d } := by
  unfold State.setFill
  split
  · exact ⟨_, _, _, rfl⟩
  · exact ⟨s.mem, s.wbuf, _, rfl⟩

/-- What a fill does to the write buffer. -/
theorem State.fillBuffer_setFill (s : State) (x : Cache × Memory) : FillBuffer s (s.setFill x) := by
  unfold State.setFill
  split
  · next h => exact .inr ⟨rfl, Cache.losesDirty_true.mp h⟩
  · next h => exact .inl ⟨⟨rfl, rfl⟩, Cache.losesDirty_false.mp (by simpa using h)⟩

/-- A fill keeps the invariant if the lines it leaves meet it. -/
theorem State.wf_setFill {s : State} (h : s.Wf = true) {x : Cache × Memory}
    (hx : DataOk s.CacheableBase x.1.lines x.2) (hk : s.dcache.losesDirty x.1 = false → x.2 = s.dataMem) :
    (s.setFill x).Wf = true := by
  rw [State.wf_iff] at h
  unfold State.setFill
  split
  · exact State.wf_of_nil rfl hx h.clean
  · next hl => exact (State.wf_iff _).mpr ⟨hk (by simpa using hl) ▸ hx, h.clean, h.mem, h.buffer⟩

/-- A load's fill keeps the invariant. -/
theorem State.wf_fillD {s : State} (h : s.Wf = true) (a : Word) : (s.fillD a).Wf = true := by
  unfold State.fillD
  split
  · next hc =>
    exact State.wf_setFill h (((State.wf_iff s).mp h).data.readFill rfl a.isLt (State.cacheableBase_base hc))
      Cache.readFill_keeps
  · exact h

/-- What a load's fill does to the write buffer. -/
theorem State.fillBuffer_fillD (s : State) (a : Word) : FillBuffer s (s.fillD a) := by
  unfold State.fillD
  split
  · exact State.fillBuffer_setFill s _
  · exact .inl ⟨⟨rfl, rfl⟩, fun _ hl _ => hl⟩

theorem State.wf_touchD {s : State} (h : s.Wf = true) (a : Word) : (s.touchD a).Wf = true := by
  unfold State.touchD
  split
  · split
    · exact State.wf_congr (s := s) rfl rfl rfl rfl rfl rfl h
    · exact h
  · exact h

/-- What a load leaves keeps the invariant. -/
theorem State.wf_afterLoad {s : State} (h : s.Wf = true) (x : Acc) : (s.afterLoad x).Wf = true := by
  have hf := State.wf_fillD (State.wf_waitDrain h) x.addr
  unfold State.afterLoad
  simp only
  split
  · exact State.wf_congr (s := s.waitDrain.fillD x.addr) rfl rfl rfl rfl rfl rfl hf
  · exact hf

/-- What a load does to the write buffer. -/
theorem State.loadBuffer_afterLoad (s : State) (x : Acc) : LoadBuffer s (s.afterLoad x) := by
  have hf : FillBuffer s.waitDrain (s.afterLoad x) := by
    have := s.waitDrain.fillBuffer_fillD x.addr
    unfold State.afterLoad
    simp only
    split
    · exact this
    · exact this
  unfold LoadBuffer
  unfold State.waitDrain at hf
  split
  · next h =>
    rw [if_pos h] at hf
    refine ⟨?_, hf⟩
    rcases hf with h | h
    · exact h.1.1
    · exact h.1
  · next h => rwa [if_neg h] at hf

theorem State.wf_drsegWrite {s : State} (h : s.Wf = true) (off : Nat) (v : Word) : (s.drsegWrite off v).Wf = true := by
  unfold State.drsegWrite
  split <;> exact State.wf_congr (s := s) rfl rfl rfl rfl rfl rfl h

theorem littleBytes_length (w : Word) (n : Nat) : (littleBytes w n).length = n := by
  induction n generalizing w with
  | zero => rfl
  | succ n ih => simp [littleBytes, ih]

@[simp] theorem valueBytes_length (be : Bool) (w : Word) (n : Nat) : (valueBytes be w n).length = n := by
  unfold valueBytes
  split <;> simp [littleBytes_length]

/-- What a store of a word at most leaves keeps the invariant. -/
theorem State.wf_afterStore {s : State} (h : s.Wf = true) {x : Acc} (hx : x.bytes ≤ 4) (v : Word) : (s.afterStore x v).Wf = true := by
  unfold State.afterStore
  split
  · exact State.wf_congr (s := s) rfl rfl rfl rfl rfl rfl h
  · split
    · exact State.wf_drsegWrite h _ _
    · exact State.wf_storeBytes (State.wf_touchD h _) _ _ (by simpa using hx)

/-! ## Lines filled from memory change no byte a load sees -/

/-- The byte of a well-formed D-cache or memory. -/
def viewByte (ls : List CacheLine) (m : Memory) (a : Nat) : Byte :=
  match findLine ls (a / 16 * 16) with
  | some l => l.data[a % 16]?.getD (m.get a)
  | none => m.get a

theorem findLine_of_mem {ls : List CacheLine} (hd : ls.Pairwise fun k l => k.base ≠ l.base) {l : CacheLine}
    (hl : l ∈ ls) : findLine ls l.base = some l := by
  cases h : findLine ls l.base with
  | none => exact absurd rfl (findLine_none h l hl)
  | some k =>
    obtain ⟨hk, hb⟩ := findLine_some h
    by_cases hkl : k = l
    · rw [hkl]
    · exact absurd hb (pairwise_ne_of_mem hd hk hl hkl)

theorem viewByte_of_mem {p : Nat → Prop} {ls : List CacheLine} {m : Memory} (h : DataOk p ls m) {l : CacheLine}
    (hl : l ∈ ls) {a : Nat} (hb : l.base = a / 16 * 16) :
    viewByte ls m a = l.data[a % 16]'(by have := (h.shape l hl).2.2.1; omega) := by
  have hlen := (h.shape l hl).2.2.1
  unfold viewByte
  rw [← hb, findLine_of_mem h.distinct hl]
  simp [List.getElem?_eq_getElem (show a % 16 < l.data.length by omega)]

theorem viewByte_of_none {ls : List CacheLine} {m : Memory} {a : Nat} (hn : ∀ l ∈ ls, l.base ≠ a / 16 * 16) :
    viewByte ls m a = m.get a := by
  unfold viewByte
  cases hf : findLine ls (a / 16 * 16) with
  | none => rfl
  | some k => exact absurd (findLine_some hf).2 (hn k (findLine_some hf).1)

theorem getAll_get {m m' : Memory} {a : Nat} (h : m'.getAll (a / 16 * 16) 16 = m.getAll (a / 16 * 16) 16) :
    m'.get a = m.get a := by
  have h1 : (m'.getAll (a / 16 * 16) 16)[a % 16]'(by simp; omega) = (m.getAll (a / 16 * 16) 16)[a % 16]'(by simp; omega) := by
    simp only [h]
  simp only [Memory.getElem_getAll] at h1
  have : a / 16 * 16 + a % 16 = a := by omega
  rwa [this] at h1

theorem clean_get {p : Nat → Prop} {ls : List CacheLine} {m : Memory} (h : DataOk p ls m) {l : CacheLine}
    (hl : l ∈ ls) {a : Nat} (hb : l.base = a / 16 * 16) (hd : l.data = m.getAll l.base 16) :
    viewByte ls m a = m.get a := by
  rw [viewByte_of_mem h hl hb]
  simp only [hd, Memory.getElem_getAll]
  congr 1
  omega

theorem Memory.get_writeBackAll {p : Nat → Prop} (es : List CacheLine) {m : Memory} (hm : m.wf = true)
    (hr : m.inRange = true) (hs : ∀ e ∈ es, LineShape p e) {a : Nat} (hn : ∀ e ∈ es, e.base ≠ a / 16 * 16) :
    (writeBackAll m es).get a = m.get a := by
  induction es generalizing m with
  | nil => rfl
  | cons e es ih =>
    have he := hs e (by simp)
    obtain ⟨h1, h2, -⟩ := writeBack_facts hm hr he
    refine (ih h1 h2 (fun x hx => hs x (by simp [hx])) fun x hx => hn x (by simp [hx])).trans ?_
    unfold writeBack
    split
    · have := hn e (by simp)
      have h3 := he.1; have h4 := he.2.2.1
      rw [Memory.get_setAll hm, dif_neg (by omega)]
    · rfl

/-- Emptying lines, dirty ones written back, changes no byte. -/
theorem viewByte_evict {p : Nat → Prop} {c : Cache} {m : Memory} (h : DataOk p c.lines m) (q : CacheLine → Bool)
    (a : Nat) : viewByte (c.evict m q).1.lines (c.evict m q).2 a = viewByte c.lines m a := by
  have he := h.evict q
  have hs : ∀ e ∈ c.lines.filter q, LineShape p e := fun e he => h.shape e (List.mem_of_mem_filter he)
  by_cases hx : ∃ l ∈ c.lines, l.base = a / 16 * 16
  · obtain ⟨l, hl, hb⟩ := hx
    by_cases hq : q l = true
    · have hn : ∀ k ∈ (c.evict m q).1.lines, k.base ≠ a / 16 * 16 := by
        intro k hk hkb
        have hk' := List.mem_filter.mp hk
        by_cases hkl : k = l
        · subst hkl; simp [hq] at hk'
        · exact pairwise_ne_of_mem h.distinct hk'.1 hl hkl (hkb.trans hb.symm)
      rw [viewByte_of_none hn, viewByte_of_mem h hl hb]
      have hd := writeBackAll_data _ (h.filter q) l (List.mem_filter.mpr ⟨hl, hq⟩)
      have : l.data[a % 16]'(by have := (h.shape l hl).2.2.1; omega) =
          ((c.evict m q).2.getAll l.base 16)[a % 16]'(by simp; omega) := by
        simp only [Cache.evict, ← hd]
      rw [this, Memory.getElem_getAll]
      congr 1
      omega
    · have hl' : l ∈ (c.evict m q).1.lines := List.mem_filter.mpr ⟨hl, by simp [hq]⟩
      rw [viewByte_of_mem he hl' hb, viewByte_of_mem h hl hb]
  · push Not at hx
    have hn : ∀ k ∈ (c.evict m q).1.lines, k.base ≠ a / 16 * 16 := fun k hk => hx k (List.mem_of_mem_filter hk)
    rw [viewByte_of_none hx, viewByte_of_none hn]
    exact Memory.get_writeBackAll _ h.wf h.inRange hs fun e he => hx e (List.mem_of_mem_filter he)

/-- A line filled from memory changes no byte. -/
theorem viewByte_cons_fresh {ls : List CacheLine} {m : Memory} {g : Geometry} (hg : g.lineBytes = 16) {b : Nat}
    (hn : ∀ l ∈ ls, l.base ≠ g.base b) (w k : Bool) (a : Nat) :
    viewByte (freshLine m g b w k :: ls) m a = viewByte ls m a := by
  by_cases hb : g.base b = a / 16 * 16
  · rw [viewByte_of_none (ls := ls) fun l hl => hb ▸ hn l hl]
    unfold viewByte
    have : (freshLine m g b w k).base = a / 16 * 16 := hb
    simp only [findLine, this, if_true]
    have hlt : a % 16 < (freshLine m g b w k).data.length := by simp [freshLine, hg]; omega
    rw [List.getElem?_eq_getElem hlt, Option.getD_some]
    simp only [freshLine, Memory.getElem_getAll, hb]
    congr 1
    omega
  · unfold viewByte
    have : (freshLine m g b w k).base ≠ a / 16 * 16 := hb
    simp only [findLine, this, if_false]

theorem viewByte_replace {p : Nat → Prop} {c : Cache} {m : Memory} (h : DataOk p c.lines m) {g : Geometry}
    (hg : g.lineBytes = 16) {b : Nat} (w k : Bool)
    (hn : ∀ l ∈ c.lines, l.inWay g (g.set b) w = false → l.base ≠ g.base b) (a : Nat) :
    viewByte (c.replace m g b w k).1.lines (c.replace m g b w k).2 a = viewByte c.lines m a := by
  refine (viewByte_cons_fresh hg (fun l hl => ?_) w k a).trans (viewByte_evict h _ a)
  have hl' := List.mem_filter.mp hl
  exact hn l hl'.1 (by simpa using hl'.2)

/-- A load's fill changes no byte. -/
theorem viewByte_readFill {p : Nat → Prop} {c : Cache} {m : Memory} (h : DataOk p c.lines m) {g : Geometry}
    (hg : g.lineBytes = 16) (b a : Nat) :
    viewByte (c.readFill m g b).1.lines (c.readFill m g b).2 a = viewByte c.lines m a := by
  unfold Cache.readFill
  split
  · rfl
  · next hf => exact viewByte_replace h hg _ _ (fun l hl _ => findLine_none hf l hl) a

/-- A load's byte is the view of the D-cache and memory. -/
theorem State.readByte_eq_view {s : State} (h : DataOk s.CacheableBase s.dcache.lines s.dataMem) (a : Word) :
    s.readByte a = viewByte s.dcache.lines s.dataMem a.toNat := by
  unfold State.readByte
  split
  · rw [Cache.byte?_eq]
    cases hf : findLine s.dcache.lines (s.dGeometry.base a.toNat) with
    | none => rw [viewByte_of_none (findLine_none hf)]; rfl
    | some l =>
      obtain ⟨hl, hb⟩ := findLine_some hf
      have hlen := (h.shape l hl).2.2.1
      rw [viewByte_of_mem h hl hb]
      have : a.toNat % 16 < l.data.length := by omega
      simp [List.getElem?_eq_getElem this]
  · next hc =>
    rw [viewByte_of_none]
    intro l hl hb
    have := (h.shape l hl).2.2.2
    rw [State.CacheableBase, hb] at this
    exact hc ((State.cacheable_base s a).symm.trans this)

/-- A fill changes no byte a load sees if its lines show the same bytes. -/
theorem State.sameMem_setFill {s : State} (h : s.Wf = true) {x : Cache × Memory}
    (hx : DataOk s.CacheableBase x.1.lines x.2) (hk : s.dcache.losesDirty x.1 = false → x.2 = s.dataMem)
    (hv : ∀ a, viewByte x.1.lines x.2 a = viewByte s.dcache.lines s.dataMem a) : SameMem s (s.setFill x) := by
  have hf := (State.wf_iff _).mp (State.wf_setFill h hx hk)
  intro b
  rw [State.readByte_eq_view ((State.wf_iff s).mp h).data, State.readByte_eq_view hf.data, State.dataMem_setFill hk,
    State.dcache_setFill]
  exact hv _

/-- A load's fill changes no byte a load sees. -/
theorem State.sameMem_fillD {s : State} (h : s.Wf = true) (a : Word) : SameMem s (s.fillD a) := by
  unfold State.fillD
  split
  · next hc =>
    have hd := ((State.wf_iff s).mp h).data
    exact State.sameMem_setFill h (hd.readFill rfl a.isLt (State.cacheableBase_base hc)) Cache.readFill_keeps
      fun b => viewByte_readFill hd rfl _ b
  · exact fun _ => rfl

theorem State.sameMem_waitDrain (s : State) : SameMem s s.waitDrain := by
  intro b
  unfold State.waitDrain
  split
  · exact s.readByte_drainAll b
  · rfl

theorem State.sameMem_afterLoad {s : State} (h : s.Wf = true) (x : Acc) : SameMem s (s.afterLoad x) := by
  intro b
  rw [← s.sameMem_waitDrain b, ← State.sameMem_fillD (State.wf_waitDrain h) x.addr b]
  unfold State.afterLoad
  simp only
  split <;> rfl

end Sys2Proof.Machine
end

