-- ==== Sys2Proof/Laws/Outcome.lean ====
section
/-!
SUPPORT. What the shared operations can answer, said once: a load and a store that are allowed, what they leave alone, and
that every operation keeps the invariant.
-/
namespace Sys2Proof.Machine

/-! ## What an access leaves alone -/

theorem State.fillD_eq (s : State) (a : Word) : ∃ m b d, s.fillD a = { s with mem := m, wbuf := b, dcache := d } := by
  unfold State.fillD
  split
  · exact s.setFill_eq _
  · exact ⟨s.mem, s.wbuf, s.dcache, rfl⟩

theorem State.afterLoad_eq (s : State) (x : Acc) :
    ∃ m b d p, s.afterLoad x = { s with mem := m, wbuf := b, dcache := d, ddblvPending := p } := by
  obtain ⟨m', b', h'⟩ := s.waitDrain_eq
  obtain ⟨m, b, d, h⟩ := s.waitDrain.fillD_eq x.addr
  unfold State.afterLoad
  rw [h, h']
  simp only
  split
  · exact ⟨_, _, _, _, rfl⟩
  · exact ⟨_, _, _, s.ddblvPending, rfl⟩

theorem State.touchD_eq (s : State) (a : Word) : ∃ d, s.touchD a = { s with dcache := d } := by
  unfold State.touchD
  split
  · split
    · exact ⟨_, rfl⟩
    · exact ⟨s.dcache, rfl⟩
  · exact ⟨s.dcache, rfl⟩

/-- A store that is no register of drseg and meets no bus error is a store of its bytes. -/
theorem State.afterStore_bytes {s : State} {x : Acc} (v : Word) (hb : s.busError .store x.addr = false)
    (hd : inDrseg x.addr = false) :
    s.afterStore x v = (s.touchD x.addr).storeBytes x.addr (valueBytes (s.touchD x.addr).cfg.bigEndian v x.bytes) := by
  unfold State.afterStore State.drsegAt
  rw [if_neg (by simp [hb]), if_neg (by simp [hd]), State.writeMem]

/-- It changes memory, the write buffer and the D-cache only. -/
theorem State.afterStore_eq (s : State) (x : Acc) (v : Word) (hb : s.busError .store x.addr = false)
    (hd : inDrseg x.addr = false) :
    ∃ m b d, s.afterStore x v = { s with mem := m, wbuf := b, dcache := d } := by
  rw [State.afterStore_bytes v hb hd]
  obtain ⟨d, h⟩ := s.touchD_eq x.addr
  obtain ⟨m', b', d', h'⟩ :=
    (s.touchD x.addr).storeBytes_eq x.addr (valueBytes (s.touchD x.addr).cfg.bigEndian v x.bytes)
  exact ⟨m', b', d', by rw [h', h]⟩

theorem State.fillI_eq (s : State) (a : Word) : ∃ c, s.fillI a = { s with icache := c } := by
  unfold State.fillI
  split
  · exact ⟨_, rfl⟩
  · exact ⟨s.icache, rfl⟩

/-- What marks a way as used changes no byte. -/
theorem State.readByte_touchD (s : State) (a b : Word) : (s.touchD a).readByte b = s.readByte b := by
  unfold State.touchD
  split
  · split <;> rfl
  · rfl

theorem State.wf_mem {s : State} (h : s.Wf = true) : s.mem.wf = true := ((State.wf_iff s).mp h).mem.1

theorem State.touchD_mem (s : State) (a : Word) : (s.touchD a).mem = s.mem := by
  obtain ⟨d, h⟩ := s.touchD_eq a
  rw [h]

/-- A store leaves every other byte alone. -/
theorem State.sameMemBut_afterStore {s : State} (hm : s.mem.wf = true) (x : Acc) (v : Word)
    (hb : s.busError .store x.addr = false) (hd : inDrseg x.addr = false) :
    SameMemBut x.addr x.bytes s (s.afterStore x v) := by
  intro b hb'
  rw [State.afterStore_bytes v hb hd, State.readByte_storeBytes_other (by rw [State.touchD_mem]; exact hm),
    State.readByte_touchD]
  intro k hk
  exact hb' k (by simpa using hk)

/-- A store keeps the canonical form of memory. -/
theorem State.wf_mem_afterStore {s : State} (hm : s.mem.wf = true) {x : Acc} (v : Word)
    (hb : s.busError .store x.addr = false) (hd : inDrseg x.addr = false) : (s.afterStore x v).mem.wf = true := by
  rw [State.afterStore_bytes v hb hd]
  exact State.wf_mem_storeBytes (by rw [State.touchD_mem]; exact hm) _ _

/-- What marks a way as used keeps the lines, so the bytes that go to memory. -/
theorem State.memoryAddrs_touchD (s : State) (a b : Word) (n : Nat) :
    (s.touchD a).memoryAddrs b n = s.memoryAddrs b n := by
  unfold State.touchD
  split
  · split <;> rfl
  · rfl

/-- Where the bytes of a store go. -/
theorem State.storeBuffer_afterStore {s : State} (hm : s.mem.wf = true) {x : Acc} (hx : x.bytes ≤ 4) (v : Word)
    (hb : s.busError .store x.addr = false) (hd : inDrseg x.addr = false) :
    StoreBuffer x.addr x.bytes s (s.afterStore x v) := by
  have h := State.storeBuffer_storeBytes (s := s.touchD x.addr) (by rw [State.touchD_mem]; exact hm) x.addr
    (valueBytes (s.touchD x.addr).cfg.bigEndian v x.bytes) (by simpa using hx)
  rw [valueBytes_length] at h
  rw [State.afterStore_bytes v hb hd]
  obtain ⟨d, e⟩ := s.touchD_eq x.addr
  simp only [StoreBuffer, State.memoryAddrs_touchD] at h ⊢
  simp only [SameBuffer, State.dataMem, e] at h ⊢
  exact h

/-! ## Outcomes -/

/-- A load that is allowed. -/
theorem loadThen_ready {w : Width} {s : State} {x : Acc} (h : LoadReady s x) (put : Word → State → State) :
    loadThen w s x none put = done w (put (s.readMem x.addr x.bytes) (s.afterLoad x)) := by
  obtain ⟨h1, h2, h3, h4, h5⟩ := h
  have hc : s.checkLoad x none = .ok := by
    simp [State.checkLoad, State.checkAccess, State.busCheck, h1, h2, h3, h4]
  simp [loadThen, hc, onCheck, State.loadValue, State.drsegAt, h5]

/-- A store that is allowed. -/
theorem storeThen_ready {w : Width} {s : State} {x : Acc} {v : Word} (h : StoreReady s x v) (put : State → State) :
    storeThen w s x v none put = done w (put (s.afterStore x v)) := by
  obtain ⟨h1, h2, h3, h4, h5⟩ := h
  have hc : s.checkStore x v none = .ok := by
    simp [State.checkStore, State.checkAccess, State.busCheck, h1, h2, h3, h4]
  simp [storeThen, hc, onCheck]

/-- What `onCheck` can answer with a next state. -/
theorem onCheck_next {c : Check} {w : Width} {s body t : State} (h : onCheck c w s body = .next t) :
    (c = .ok ∧ t = body.advance w) ∨ (∃ x, c = .exc x ∧ t = takeException x w s) ∨
      ∃ y, c = .dbg y ∧ t = debugEnter y w s := by
  cases c with
  | ok => exact .inl ⟨rfl, by simpa [onCheck, done] using h.symm⟩
  | exc x => exact .inr (.inl ⟨x, rfl, by simpa [onCheck, raise] using h.symm⟩)
  | dbg y => exact .inr (.inr ⟨y, rfl, by simpa [onCheck] using h.symm⟩)
  | stop f => simp [onCheck] at h

/-! ## Every operation keeps the invariant -/

theorem State.wf_setR {s : State} (h : s.Wf = true) (i : BitVec 5) (v : Word) : (s.setR i v).Wf = true :=
  State.wf_congr (s := s) rfl rfl rfl rfl rfl rfl h

theorem State.wf_setFlags {s : State} (h : s.Wf = true) (f : Flags) : (s.setFlags f).Wf = true :=
  State.wf_congr (s := s) rfl rfl rfl rfl rfl rfl h

theorem State.wf_spend {s : State} (h : s.Wf = true) : s.spend.Wf = true :=
  State.wf_congr (s := s) rfl rfl rfl rfl rfl rfl h

theorem State.wf_setR2 {s : State} (h : s.Wf = true) (i : BitVec 5) (v : Word) (j : BitVec 5) (w : Word) :
    (s.setR2 i v j w).Wf = true := by
  unfold State.setR2
  split
  · exact State.wf_setR (State.wf_spend h) _ _
  · exact State.wf_setR (State.wf_setR h _ _) _ _

theorem State.wf_putUsd {s : State} (h : s.Wf = true) (u1 u2 : BitVec 5) (x : CeResult) :
    (s.putUsd u1 u2 x).Wf = true := by
  unfold State.putUsd
  split
  · exact State.wf_setR2 h _ _ _ _
  · exact State.wf_congr (s := s) rfl rfl rfl rfl rfl rfl h
  · exact State.wf_congr (s := s) rfl rfl rfl rfl rfl rfl h
  · exact h

/-- What an extension writes besides CEH and CEL: general registers, and the model's own counter. -/
theorem State.putUsd_eq (s : State) (u1 u2 : BitVec 5) (x : CeResult) :
    ∃ g k, s.putUsd u1 u2 x = { s with gpr := g, freeCtr := k } := by
  unfold State.putUsd State.setR2
  split
  · split
    · exact ⟨_, _, rfl⟩
    · exact ⟨_, _, rfl⟩
  · exact ⟨_, _, rfl⟩
  · exact ⟨_, _, rfl⟩
  · exact ⟨_, _, rfl⟩

theorem State.wf_advance {s : State} (h : s.Wf = true) (w : Width) : (s.advance w).Wf = true :=
  State.wf_congr (s := s) rfl rfl rfl rfl rfl rfl h

theorem wf_debugEnter {s : State} (h : s.Wf = true) (y : DebugExc) (w : Width) : (debugEnter y w s).Wf = true :=
  State.wf_congr (s := s) rfl rfl rfl rfl rfl rfl h

theorem wf_enterNormal {s : State} (h : s.Wf = true) (x : Exc) (w : Width) : (enterNormal x w s).Wf = true :=
  State.wf_congr (s := s) rfl rfl rfl rfl rfl rfl h

theorem wf_takeException {s : State} (h : s.Wf = true) (x : Exc) (w : Width) : (takeException x w s).Wf = true := by
  unfold takeException
  split
  · exact State.wf_congr (s := s) rfl rfl rfl rfl rfl rfl h
  · exact wf_enterNormal h x w

theorem State.wf_fillI {s : State} (h : s.Wf = true) (a : Word) : (s.fillI a).Wf = true := by
  unfold State.fillI
  split
  · rw [State.wf_iff] at h ⊢
    refine ⟨h.data, fun l hl => ?_, h.mem, h.buffer⟩
    simp only [Cache.readFill] at hl
    split at hl
    · exact h.clean l hl
    · exact (Cache.mem_replace hl).elim id fun hl => h.clean l hl.1
  · exact h

/-- An operation that replaces the I-cache keeps the invariant if its lines stay clean. -/
theorem State.wf_setI {s : State} (h : s.Wf = true) {c : Cache} (hc : ∀ l ∈ c.lines, l.dirty = false) :
    (s.setI c).Wf = true := by
  rw [State.wf_iff] at h ⊢
  exact ⟨h.data, hc, h.mem, h.buffer⟩

theorem State.wf_setD {s : State} (h : s.Wf = true) {x : Cache × Memory} (hx : DataOk s.CacheableBase x.1.lines x.2) :
    (s.setD x).Wf = true :=
  State.wf_of_nil rfl hx ((State.wf_iff s).mp h).clean

theorem State.wf_onHit {s : State} (h : s.Wf = true) (a : Nat) {x : Cache × Memory}
    (hx : DataOk s.CacheableBase x.1.lines x.2) : (s.onHit a x).Wf = true := by
  unfold State.onHit
  split
  · exact State.wf_setD h hx
  · exact h

theorem State.wf_setDcache {s : State} (h : s.Wf = true) {c : Cache} (hc : DataOk s.CacheableBase c.lines s.dataMem) :
    (s.setDcache c).Wf = true := by
  rw [State.wf_iff] at h ⊢
  exact ⟨hc, h.clean, h.mem, h.buffer⟩

theorem State.wf_toggleWb {s : State} (h : s.Wf = true) : s.toggleWb.Wf = true := by
  unfold State.toggleWb
  simp only
  split
  · next hw => exact State.wf_of_nil rfl ((State.wf_iff s).mp h).data ((State.wf_iff s).mp h).clean
  · next hw =>
    have hp := (State.wf_iff s).mp h
    have hb := (s.bufferOk_iff.mp hp.buffer).2.2 (by simpa using hw)
    refine (State.wf_iff _).mpr ⟨hp.data, hp.clean, hp.mem, State.bufferOk_of_nil hb⟩

/-- The `cache` instruction keeps the invariant. -/
theorem State.wf_cacheEffect {s : State} (h : s.Wf = true) (op : BitVec 5) (va : Word) :
    (s.cacheEffect op va).Wf = true := by
  unfold State.cacheEffect
  split
  · exact h
  next hc =>
  have hca : cacheLineOp op = true → s.CacheableBase (s.dGeometry.base va.toNat) := by
    intro hl
    apply State.cacheableBase_base
    simpa [State.cacheIgnored, hl] using hc
  have hn : ∀ n, op.toNat = n → n ∈ [0x00, 0x01, 0x08, 0x09, 0x0D, 0x0E] → cacheLineOp op = true := by
    intro n hn hm
    simp only [cacheLineOp, hn, decide_eq_true hm]
  have hw := h
  rw [State.wf_iff] at h
  obtain ⟨hd, hi, hm, hb⟩ := h
  unfold State.cacheOp
  simp only
  split
  · refine State.wf_setI hw fun l hl => ?_
    simp only [Cache.prefetch] at hl
    split at hl <;> exact (Cache.mem_replace hl).elim id fun hl => hi l hl.1
  · refine State.wf_setI hw fun l hl => ?_
    simp only [Cache.prefetchLock] at hl
    exact (Cache.mem_replace hl).elim id fun hl => hi l (List.mem_of_mem_filter hl.1)
  · exact State.wf_setI hw fun l hl => hi l (List.mem_of_mem_filter hl)
  · next e => exact State.wf_setFill hw (hd.prefetch rfl va.isLt (hca (hn _ e (by decide)))) Cache.prefetch_keeps
  · next e =>
    exact State.wf_setFill hw (hd.prefetchLock rfl va.isLt (hca (hn _ e (by decide)))) Cache.prefetchLock_keeps
  · exact State.wf_setDcache hw (hd.invalidate _ _)
  · exact State.wf_onHit hw _ (hd.writeOut _ _)
  · exact State.wf_onHit hw _ (hd.flush _ _)
  · exact State.wf_setI hw fun l hl => by simp [Cache.empty] at hl
  · exact State.wf_congr (s := s) rfl rfl rfl rfl rfl rfl hw
  · exact State.wf_setDcache hw
      ⟨hd.wf, hd.inRange, by simp [Cache.empty], by simp [Cache.empty], by simp [Cache.empty]⟩
  · exact State.wf_drainAll hw
  · exact State.wf_toggleWb hw
  · exact State.wf_congr (s := s) rfl rfl rfl rfl rfl rfl hw
  · exact State.wf_congr (s := s) rfl rfl rfl rfl rfl rfl hw
  · exact State.wf_setD hw hd.writeOutAll
  · exact State.wf_setD hw (hd.flushAll _)
  · exact hw

/-- A load that has an outcome keeps the invariant if what is done with the value does. -/
theorem wf_loadThen {w : Width} {s t : State} (hs : s.Wf = true) {x : Acc} {mid : Option Exc}
    {put : Word → State → State} (hp : ∀ v u, u.Wf = true → (put v u).Wf = true)
    (h : loadThen w s x mid put = .next t) : t.Wf = true := by
  rcases onCheck_next h with ⟨-, rfl⟩ | ⟨e, -, rfl⟩ | ⟨y, -, rfl⟩
  · exact State.wf_advance (hp _ _ (State.wf_afterLoad hs x)) w
  · exact wf_takeException hs _ _
  · exact wf_debugEnter hs _ _

/-- A store that has an outcome keeps the invariant if what is done after it does. -/
theorem wf_storeThen {w : Width} {s t : State} (hs : s.Wf = true) {x : Acc} (hx : x.bytes ≤ 4) {v : Word} {mid : Option Exc}
    {put : State → State} (hp : ∀ u, u.Wf = true → (put u).Wf = true)
    (h : storeThen w s x v mid put = .next t) : t.Wf = true := by
  rcases onCheck_next h with ⟨-, rfl⟩ | ⟨e, -, rfl⟩ | ⟨y, -, rfl⟩
  · exact State.wf_advance (hp _ (State.wf_afterStore hs hx v)) w
  · exact wf_takeException hs _ _
  · exact wf_debugEnter hs _ _

end Sys2Proof.Machine
end

