-- ==== Sys2Proof/Laws/CacheOp.lean ====
section
/-!
SUPPORT. What each operation of the `cache` instruction does to the caches and memory (20_memory.md R127, R131), said once: the
lines it fills, empties or cleans, the bytes memory then holds, and that no byte a load sees changes but by an invalidation
of dirty lines.
-/
namespace Sys2Proof.Machine

/-! ## Filling a line -/

theorem Cache.mem_mark (c : Cache) (set : Nat) (w : Bool) : set ∈ (c.mark set w).mru ↔ w = false := by
  cases w <;> simp [Cache.mark]

theorem Cache.mem_mark_ne (c : Cache) {set x : Nat} (h : x ≠ set) (w : Bool) :
    x ∈ (c.mark set w).mru ↔ x ∈ c.mru := by
  cases w <;> simp [Cache.mark, h]

/-- The MRU bit of the set of a line that is alone in it, after the bit of every line's set has been set to the other way. -/
theorem Cache.mem_mark_all (g : Geometry) (l : CacheLine) (ls : List CacheLine) (c : Cache)
    (h : ∀ k ∈ ls, g.set k.base = g.set l.base → k = l) :
    g.set l.base ∈ (ls.foldl (fun c k => c.mark (g.set k.base) (!k.way1)) c).mru ↔
      if l ∈ ls then l.way1 = true else g.set l.base ∈ c.mru := by
  induction ls generalizing c with
  | nil => simp
  | cons k ks ih =>
    rw [List.foldl_cons, ih _ fun j hj => h j (List.mem_cons_of_mem _ hj)]
    by_cases hl : l ∈ ks
    · simp [hl]
    · by_cases hk : k = l
      · subst hk
        simp [hl, Cache.mem_mark]
      · have hne : g.set l.base ≠ g.set k.base := fun e => hk (h k (by simp) e.symm)
        simp [hl, Ne.symm hk, Cache.mem_mark_ne _ hne]

/-- A line that is replaced is read from memory, dirty data having been written back. -/
theorem Cache.replace_fills (c : Cache) (m : Memory) (g : Geometry) (a : Nat) (w k : Bool) :
    Fills g a c (c.replace m g a w k).1 (c.replace m g a w k).2 (freshLine (c.replace m g a w k).2 g a w k) := by
  refine ⟨by simp [Cache.replace, findLine, freshLine], rfl, rfl, Cache.mem_mark _ _ _, fun l hl _ hw => ?_⟩
  simp only [Cache.replace, Cache.mark_lines, Cache.evict, List.mem_cons, List.mem_filter]
  refine .inr ⟨hl, ?_⟩
  rcases hw with h | h
  · simp [CacheLine.inWay, h]
  · cases hl' : l.way1 <;> cases w <;> simp_all [CacheLine.inWay, freshLine]

/-- The way to be replaced: the one not used last, never a locked way 0. -/
theorem Cache.victim_iff (c : Cache) (g : Geometry) (set : Nat) : c.victim g set = true ↔
    set ∈ c.mru ∨ ∃ k ∈ c.lines, g.set k.base = set ∧ k.way1 = false ∧ k.lock = true := by
  unfold Cache.victim
  split
  · next h => simp [h]
  · next h => simp [h, CacheLine.inWay, and_assoc]

/-- What a prefetch does, its line read from the memory it leaves. -/
theorem Cache.prefetch_spec (c : Cache) (m : Memory) (g : Geometry) (a : Nat) :
    Prefetches g a c (c.prefetch m g a).1 (c.prefetch m g a).2 := by
  unfold Cache.prefetch
  split
  · next l h =>
    exact ⟨_, Cache.replace_fills c m g a l.way1 l.lock, fun k hk => by simp_all [freshLine], fun hk => by simp_all⟩
  · next h =>
    exact ⟨_, Cache.replace_fills c m g a _ false, fun k hk => by simp_all,
      fun _ => ⟨rfl, Cache.victim_iff c g (g.set a)⟩⟩

/-- What a prefetch with lock does. -/
theorem Cache.prefetchLock_spec (c : Cache) (m : Memory) (g : Geometry) (a : Nat) :
    PrefetchesLocked g a c (c.prefetchLock m g a).1 (c.prefetchLock m g a).2 := by
  unfold Cache.prefetchLock
  obtain ⟨h1, h2, h3, h4, h5⟩ :=
    Cache.replace_fills (c.evict m fun l => decide (l.base = g.base a)).1
      (c.evict m fun l => decide (l.base = g.base a)).2 g a false true
  refine ⟨_, ⟨h1, h2, h3, h4, fun k hk hb hw => h5 k (List.mem_filter.mpr ⟨hk, by simpa using hb⟩) hb hw⟩, rfl, rfl,
    fun k hk hb => ?_⟩
  simp only [Cache.replace, Cache.mark_lines, List.mem_cons] at hk
  refine hk.resolve_right fun hk => ?_
  have := (List.mem_filter.mp (List.mem_filter.mp hk).1).2
  simp [hb] at this

/-! ## Memory and the I-cache -/

/-- Lines that are not dirty leave memory alone when they are replaced. -/
theorem Cache.replace_clean {c : Cache} (h : ∀ l ∈ c.lines, l.dirty = false) (m : Memory) (g : Geometry) (a : Nat)
    (w k : Bool) : (c.replace m g a w k).2 = m :=
  writeBackAll_clean (fun l hl => h l (List.mem_of_mem_filter hl)) m

theorem Cache.prefetch_clean {c : Cache} (h : ∀ l ∈ c.lines, l.dirty = false) (m : Memory) (g : Geometry) (a : Nat) :
    (c.prefetch m g a).2 = m := by
  unfold Cache.prefetch
  split <;> exact Cache.replace_clean h m g a _ _

theorem Cache.prefetchLock_clean {c : Cache} (h : ∀ l ∈ c.lines, l.dirty = false) (m : Memory) (g : Geometry)
    (a : Nat) : (c.prefetchLock m g a).2 = m :=
  (Cache.replace_clean (fun l hl => h l (List.mem_of_mem_filter hl)) _ g a _ _).trans
    (writeBackAll_clean (fun l hl => h l (List.mem_of_mem_filter hl)) m)

/-! ## Write-out and flush change no byte -/

theorem viewByte_map_clean {p : Nat → Prop} {ls : List CacheLine} {m : Memory} (h : DataOk p ls m) (a : Nat) :
    (writeBackAll m ls).get a = viewByte ls m a := by
  have he := viewByte_evict (c := ⟨ls, []⟩) h (fun _ => true) a
  have hn : ((⟨ls, []⟩ : Cache).evict m fun _ => true).1.lines = [] := by simp [Cache.evict]
  rw [viewByte_of_none (by simp [hn])] at he
  simpa [Cache.evict] using he

theorem writeBack_eq_evict {ls : List CacheLine} (hd : ls.Pairwise fun k l => k.base ≠ l.base) {l : CacheLine}
    (hl : l ∈ ls) (m : Memory) :
    writeBack m l = writeBackAll m (ls.filter fun k => decide (k.base = l.base)) := by
  have : ls.filter (fun k => decide (k.base = l.base)) = [l] := by
    induction ls with
    | nil => simp at hl
    | cons e es ih =>
      obtain ⟨h1, h2⟩ := List.pairwise_cons.mp hd
      rcases List.mem_cons.mp hl with rfl | hl'
      · simp only [List.filter_cons, decide_true, if_true, List.cons.injEq, true_and, List.filter_eq_nil_iff,
          decide_eq_true_eq]
        exact fun k hk => Ne.symm (h1 k hk)
      · simp only [List.filter_cons, h1 l hl', decide_false, Bool.false_eq_true, if_false]
        exact ih h2 hl'
  rw [this]
  rfl

/-- Memory after one line has been written back: the bytes of that line are what a load sees, the others stay. -/
theorem writeBack_get {p : Nat → Prop} {ls : List CacheLine} {m : Memory} (h : DataOk p ls m) {l : CacheLine}
    (hl : l ∈ ls) (a : Nat) :
    (writeBack m l).get a = if l.base = a / 16 * 16 then viewByte ls m a else m.get a := by
  have he := viewByte_evict (c := ⟨ls, []⟩) h (fun k => decide (k.base = l.base)) a
  have hm : ((⟨ls, []⟩ : Cache).evict m fun k => decide (k.base = l.base)).2 = writeBack m l :=
    (writeBack_eq_evict h.distinct hl m).symm
  rw [hm] at he
  split
  · next hb =>
    rw [← he, viewByte_of_none]
    intro k hk hkb
    have := (List.mem_filter.mp hk).2
    simp [hkb, hb] at this
  · next hb =>
    rw [writeBack_eq_evict h.distinct hl]
    exact Memory.get_writeBackAll _ h.wf h.inRange (fun e he => h.shape e (List.mem_of_mem_filter he)) fun e he => by
      have := (List.mem_filter.mp he).2
      rw [decide_eq_true_eq] at this
      rwa [this]

theorem mapLine_eq_map {f : CacheLine → CacheLine} {ls : List CacheLine}
    (hd : ls.Pairwise fun k l => k.base ≠ l.base) (b : Nat) :
    mapLine f ls b = ls.map fun k => if k.base = b then f k else k := by
  induction ls with
  | nil => rfl
  | cons e es ih =>
    obtain ⟨h1, h2⟩ := List.pairwise_cons.mp hd
    unfold mapLine
    split
    · next he =>
      have : es.map (fun k => if k.base = b then f k else k) = es := by
        conv_rhs => rw [← List.map_id es]
        exact List.map_congr_left fun k hk => by simp [show k.base ≠ b from fun hb => h1 k hk (he.trans hb.symm)]
      simp [he, this]
    · next he => simp [he, ih h2]

/-! ## The operations -/

/-- A line of the D-cache is of sixteen bytes. -/
theorem sameLine_d (s : State) (a b : Word) :
    SameLine s.dGeometry a b ↔ s.dGeometry.base a.toNat = b.toNat / 16 * 16 := by
  simp only [SameLine, Geometry.base, State.dGeometry_lineBytes]
  omega

/-- Every byte of the state after lines have been written to memory is the view of its lines. -/
theorem readByte_setD {s : State} {x : Cache × Memory} (h : DataOk s.CacheableBase x.1.lines x.2) (b : Word) :
    (s.setD x).readByte b = viewByte x.1.lines x.2 b.toNat :=
  State.readByte_eq_view (s := s.setD x) h b

/-- Every byte of the state after the D-cache was replaced is the view of its lines. -/
theorem readByte_setDcache {s : State} {c : Cache} (h : DataOk s.CacheableBase c.lines s.dataMem) (b : Word) :
    (s.setDcache c).readByte b = viewByte c.lines s.dataMem b.toNat :=
  State.readByte_eq_view (s := s.setDcache c) h b

/-- After a line has left the I-cache its bytes are fetched from memory. -/
theorem fetchByte_of_no_line {s : State} (hc : s.cfg.icacheCoherent = false) {b : Word}
    (hn : ∀ l ∈ s.icache.lines, l.base ≠ s.iGeometry.base b.toNat) : s.fetchByte b = s.mem.get b.toNat := by
  have : findLine s.icache.lines (s.iGeometry.base b.toNat) = none := by
    cases hf : findLine s.icache.lines (s.iGeometry.base b.toNat) with
    | none => rfl
    | some l => exact absurd (findLine_some hf).2 (hn l (findLine_some hf).1)
  simp [State.fetchByte, hc, Cache.byte?, this]

/-- Line write-out and flush: memory holds the line, and the rest of memory stays. -/
theorem lineBack_mem {p : Nat → Prop} {c : Cache} {m m' : Memory} (h : DataOk p c.lines m) {base : Nat}
    (hm : m' = (findLine c.lines base).elim m (writeBack m)) (b : Nat) :
    m'.get b = if base = b / 16 * 16 then viewByte c.lines m b else m.get b := by
  subst hm
  cases hf : findLine c.lines base with
  | none =>
    rw [Option.elim_none]
    split
    · next hb => exact (viewByte_of_none fun l hl => by rw [← hb]; exact findLine_none hf l hl).symm
    · rfl
  | some l =>
    obtain ⟨hl, hb⟩ := findLine_some hf
    rw [Option.elim_some, ← hb]
    exact writeBack_get h hl b

theorem Cache.writeOut_mem (c : Cache) (m : Memory) (g : Geometry) (a : Nat) : (c.writeOut m g a).2 =
    (findLine c.lines (g.base a)).elim m (writeBack m) := by
  unfold Cache.writeOut
  split <;> simp_all

theorem Cache.flush_mem {p : Nat → Prop} {c : Cache} {m : Memory} (h : DataOk p c.lines m) (g : Geometry) (a : Nat) :
    (c.flush m g a).2 = (findLine c.lines (g.base a)).elim m (writeBack m) := by
  unfold Cache.flush
  split
  · simp_all
  · next l hf =>
    obtain ⟨hl, hb⟩ := findLine_some hf
    rw [hf, Option.elim_some]
    simp only [Cache.evict, ← hb]
    exact (writeBack_eq_evict h.distinct hl m).symm

theorem Cache.writeOut_lines {p : Nat → Prop} {c : Cache} {m : Memory} (h : DataOk p c.lines m) (g : Geometry)
    (a : Nat) : (c.writeOut m g a).1.lines = c.lines.map fun k => { k with dirty := k.dirty && k.base != g.base a } := by
  unfold Cache.writeOut
  split
  · next hf =>
    conv_lhs => rw [← List.map_id c.lines]
    refine List.map_congr_left fun k hk => ?_
    have := findLine_none hf k hk
    have : (k.base != g.base a) = true := by simpa using this
    simp [this]
  · next l hf =>
    rw [Cache.mark_lines, mapLine_eq_map h.distinct]
    refine List.map_congr_left fun k hk => ?_
    by_cases hb : k.base = g.base a
    · simp [hb]
    · have : (k.base != g.base a) = true := by simpa using hb
      simp [hb, this]

theorem Cache.mem_flush_lines (c : Cache) (m : Memory) (g : Geometry) (a : Nat) (k : CacheLine) :
    k ∈ (c.flush m g a).1.lines ↔ k ∈ c.lines ∧ k.base ≠ g.base a := by
  unfold Cache.flush
  split
  · next hf => exact ⟨fun h => ⟨h, findLine_none hf k h⟩, fun h => h.1⟩
  · simp [Cache.evict]

/-- An operation on the line of an address that hits: memory holds the line and every buffered store. -/
theorem State.onHit_effect {s : State} (hd : DataOk s.CacheableBase s.dcache.lines s.dataMem) (a : Word)
    {x : Cache × Memory} (hx : x.2 = (findLine s.dcache.lines (s.dGeometry.base a.toNat)).elim s.dataMem
      (writeBack s.dataMem)) :
    (findLine s.dcache.lines (s.dGeometry.base a.toNat) = none → s.onHit a.toNat x = s) ∧
    (findLine s.dcache.lines (s.dGeometry.base a.toNat) ≠ none → s.onHit a.toNat x = s.setD x ∧
      (∀ b, SameLine s.dGeometry a b → x.2.get b.toNat = s.readByte b) ∧
      ∀ b, ¬ SameLine s.dGeometry a b → x.2.get b.toNat = s.dataMem.get b.toNat) := by
  have hm := lineBack_mem hd hx
  refine ⟨fun h => by simp [State.onHit, h], fun h => ⟨?_, fun b hb => ?_, fun b hb => ?_⟩⟩
  · simp [State.onHit, Option.isSome_iff_ne_none, h]
  · rw [hm, if_pos ((sameLine_d s a b).mp hb), State.readByte_eq_view hd]
  · rw [hm, if_neg fun hc => hb ((sameLine_d s a b).mpr hc)]

/-- What an operation does, said once for all of them (20_memory.md R127, R131). -/
theorem State.cacheOp_effect {s : State} (h : s.Wf = true) (op : BitVec 5) (va : Word) :
    CacheEffect op.toNat va s (s.cacheOp op va) := by
  obtain ⟨hd, hi, -, -⟩ := (State.wf_iff s).mp h
  have hread : ∀ b : Word, s.readByte b = viewByte s.dcache.lines s.dataMem b.toNat := State.readByte_eq_view hd
  have hno : ∀ c : Cache, DataOk s.CacheableBase c.lines s.dataMem → ∀ b : Word,
      (∀ l ∈ c.lines, l.base ≠ b.toNat / 16 * 16) → (s.setDcache c).readByte b = s.dataMem.get b.toNat :=
    fun c hc b hn => (readByte_setDcache hc b).trans (viewByte_of_none hn)
  have hline : ∀ b : Word, SameLine s.iGeometry va b → s.iGeometry.base b.toNat = s.iGeometry.base va.toNat := by
    intro b hb
    simp only [SameLine] at hb
    simp only [Geometry.base, hb]
  unfold State.cacheOp CacheEffect
  simp only
  have hlt := op.isLt
  split <;> rename_i e <;> simp only [e, List.mem_cons, List.not_mem_nil, or_false, Nat.reduceEqDiff,
    or_true, false_implies, forall_const, true_and, and_true, not_true_eq_false,
    OfNat.ofNat_ne_zero, OfNat.zero_ne_ofNat, zero_ne_one, one_ne_zero, OfNat.ofNat_ne_one, OfNat.one_ne_ofNat]
  · exact ⟨by simpa [State.setI, Cache.prefetch_clean hi] using s.icache.prefetch_spec s.mem s.iGeometry va.toNat,
      rfl, rfl, rfl⟩
  · exact ⟨by simpa [State.setI, Cache.prefetchLock_clean hi] using s.icache.prefetchLock_spec s.mem s.iGeometry va.toNat,
      rfl, rfl, rfl⟩
  · refine ⟨⟨fun k => by simp [State.setI, Cache.invalidate], fun hc b hb => ?_⟩, rfl, rfl, rfl⟩
    refine fetchByte_of_no_line (s := s.setI (s.icache.invalidate s.iGeometry va.toNat)) hc fun l hl => ?_
    have := (List.mem_filter.mp hl).2
    exact (hline b hb).symm ▸ by simpa using this
  · refine ⟨?_, s.fillBuffer_setFill _, ?_⟩
    · rw [State.dcache_setFill, State.dataMem_setFill Cache.prefetch_keeps]
      exact s.dcache.prefetch_spec s.dataMem s.dGeometry va.toNat
    · obtain ⟨m, b, d, e⟩ := s.setFill_eq (s.dcache.prefetch s.dataMem s.dGeometry va.toNat)
      rw [e]
  · refine ⟨?_, s.fillBuffer_setFill _, ?_⟩
    · rw [State.dcache_setFill, State.dataMem_setFill Cache.prefetchLock_keeps]
      exact s.dcache.prefetchLock_spec s.dataMem s.dGeometry va.toNat
    · obtain ⟨m, b, d, e⟩ := s.setFill_eq (s.dcache.prefetchLock s.dataMem s.dGeometry va.toNat)
      rw [e]
  · refine ⟨⟨fun k => by simp [State.setDcache, Cache.invalidate], fun b hb => ?_⟩, ⟨rfl, rfl⟩, rfl⟩
    refine hno _ (hd.invalidate _ _) b fun l hl => ?_
    have := (List.mem_filter.mp hl).2
    rw [sameLine_d] at hb
    simpa [hb] using this
  · obtain ⟨h1, h2⟩ := State.onHit_effect hd va (Cache.writeOut_mem s.dcache s.dataMem s.dGeometry va.toNat)
    refine ⟨⟨fun hf => ?_, fun hf => ?_⟩, ⟨?_, fun l hl => ?_⟩, ?_⟩
    · rw [h1 hf]; exact ⟨rfl, rfl, rfl⟩
    · rw [(h2 hf).1]; exact ⟨rfl, (h2 hf).2⟩
    · rw [← Cache.writeOut_lines hd]
      cases hf : findLine s.dcache.lines (s.dGeometry.base va.toNat) with
      | none => rw [h1 hf, Cache.writeOut, hf]
      | some l => rw [(h2 (by simp [hf])).1]; rfl
    · rw [(h2 (by simp [hl])).1]
      simp only [State.setD, Cache.writeOut, hl]
      exact Cache.mem_mark _ _ _
    · unfold State.onHit
      split <;> rfl
  · obtain ⟨h1, h2⟩ := State.onHit_effect hd va (Cache.flush_mem hd s.dGeometry va.toNat)
    refine ⟨⟨fun hf => ?_, fun hf => ?_⟩, ⟨fun k => ?_, fun l hl => ?_⟩, ?_⟩
    · rw [h1 hf]; exact ⟨rfl, rfl, rfl⟩
    · rw [(h2 hf).1]; exact ⟨rfl, (h2 hf).2⟩
    · rw [← Cache.mem_flush_lines s.dcache s.dataMem]
      cases hf : findLine s.dcache.lines (s.dGeometry.base va.toNat) with
      | none => rw [h1 hf, Cache.flush, hf]
      | some l => rw [(h2 (by simp [hf])).1]; rfl
    · rw [(h2 (by simp [hl])).1]
      simp only [State.setD, Cache.flush, hl]
      exact (Cache.mem_mark _ _ _).trans (by simp)
    · unfold State.onHit
      split <;> rfl
  · exact ⟨⟨rfl, fun hc b => fetchByte_of_no_line (s := s.setI Cache.empty) hc (by simp [State.setI, Cache.empty])⟩,
      rfl, rfl, rfl⟩
  · exact fun _ => ⟨rfl, rfl, rfl, rfl⟩
  · refine ⟨⟨rfl, fun b => ?_⟩, ⟨rfl, rfl⟩, rfl⟩
    exact hno Cache.empty ⟨hd.wf, hd.inRange, by simp [Cache.empty], by simp [Cache.empty], by simp [Cache.empty]⟩ b
      (by simp [Cache.empty])
  · exact ⟨⟨rfl, rfl, rfl⟩, rfl⟩
  · unfold State.toggleWb
    simp only
    split <;> exact ⟨rfl, rfl, rfl, rfl⟩
  · exact fun _ => ⟨rfl, rfl, rfl, rfl⟩
  · exact fun _ => ⟨rfl, rfl, rfl, rfl⟩
  · exact ⟨⟨rfl, fun b => (viewByte_map_clean hd _).trans (hread b).symm⟩, rfl, rfl⟩
  · refine ⟨⟨rfl, fun b => (viewByte_map_clean hd _).trans (hread b).symm⟩, ⟨rfl, fun l hl h => ?_⟩, rfl⟩
    exact (Cache.mem_mark_all _ l s.dcache.lines s.dcache h).trans (by simp [hl])
  · simp_all [SameArrays, SameBuffer]

/-! ## No byte a load sees changes -/

theorem viewByte_prefetch {p : Nat → Prop} {c : Cache} {m : Memory} (h : DataOk p c.lines m) {g : Geometry}
    (hg : g.lineBytes = 16) (b a : Nat) :
    viewByte (c.prefetch m g b).1.lines (c.prefetch m g b).2 a = viewByte c.lines m a := by
  unfold Cache.prefetch
  split
  · next l hf =>
    obtain ⟨hl, hb⟩ := findLine_some hf
    refine viewByte_replace h hg _ _ (fun k hk hw hkb => ?_) a
    have : k = l := by
      by_contra hne
      exact pairwise_ne_of_mem h.distinct hk hl hne (hkb.trans hb.symm)
    subst this
    simp [CacheLine.inWay, Geometry.set_of_base hg hkb] at hw
  · next hf => exact viewByte_replace h hg _ _ (fun k hk _ => findLine_none hf k hk) a

theorem viewByte_prefetchLock {p : Nat → Prop} {c : Cache} {m : Memory} (h : DataOk p c.lines m) {g : Geometry}
    (hg : g.lineBytes = 16) (b a : Nat) :
    viewByte (c.prefetchLock m g b).1.lines (c.prefetchLock m g b).2 a = viewByte c.lines m a := by
  refine (viewByte_replace (h.evict _) hg _ _ (fun k hk _ => ?_) a).trans (viewByte_evict h _ a)
  have := (List.mem_filter.mp hk).2
  simpa using this

/-- Lines whose bytes stay show the same bytes, over a memory that has stayed where there is no line. -/
theorem viewByte_map {p : Nat → Prop} {ls : List CacheLine} {m m' : Memory} (h : DataOk p ls m)
    {f : CacheLine → CacheLine} (hb : ∀ k, (f k).base = k.base) (hf : ∀ k, (f k).data = k.data)
    (h' : DataOk p (ls.map f) m') {a : Nat} (hm : (∀ l ∈ ls, l.base ≠ a / 16 * 16) → m'.get a = m.get a) :
    viewByte (ls.map f) m' a = viewByte ls m a := by
  by_cases hx : ∃ l ∈ ls, l.base = a / 16 * 16
  · obtain ⟨l, hl, hlb⟩ := hx
    rw [viewByte_of_mem h hl hlb, viewByte_of_mem h' (List.mem_map_of_mem hl) ((hb l).trans hlb)]
    simp only [hf]
  · push Not at hx
    rw [viewByte_of_none hx, viewByte_of_none, hm hx]
    intro l hl
    obtain ⟨k, hk, rfl⟩ := List.mem_map.mp hl
    rw [hb]
    exact hx k hk

theorem viewByte_writeOut {p : Nat → Prop} {c : Cache} {m : Memory} (h : DataOk p c.lines m) (g : Geometry)
    (b a : Nat) : viewByte (c.writeOut m g b).1.lines (c.writeOut m g b).2 a = viewByte c.lines m a := by
  have h' := h.writeOut g b
  rw [Cache.writeOut_lines h] at h' ⊢
  refine viewByte_map (f := fun k => { k with dirty := k.dirty && k.base != g.base b }) h (fun _ => rfl) (fun _ => rfl) h'
    fun hn => ?_
  rw [lineBack_mem h (Cache.writeOut_mem c m g b)]
  split
  · exact viewByte_of_none hn
  · rfl

theorem viewByte_flush {p : Nat → Prop} {c : Cache} {m : Memory} (h : DataOk p c.lines m) (g : Geometry)
    (b a : Nat) : viewByte (c.flush m g b).1.lines (c.flush m g b).2 a = viewByte c.lines m a := by
  unfold Cache.flush
  split
  · rfl
  · exact viewByte_evict h _ a

theorem viewByte_writeOutAll {p : Nat → Prop} {c : Cache} {m : Memory} (h : DataOk p c.lines m) (a : Nat) :
    viewByte (c.writeOutAll m).1.lines (c.writeOutAll m).2 a = viewByte c.lines m a :=
  viewByte_map (f := fun l => { l with dirty := false }) h (fun _ => rfl) (fun _ => rfl) h.writeOutAll fun hn =>
    (viewByte_map_clean h a).trans (viewByte_of_none hn)

/-- A clean D-cache shows the bytes of memory. -/
theorem viewByte_of_clean {p : Nat → Prop} {ls : List CacheLine} {m : Memory} (h : DataOk p ls m)
    (hc : ∀ l ∈ ls, l.dirty = false) (a : Nat) : viewByte ls m a = m.get a := by
  by_cases hx : ∃ l ∈ ls, l.base = a / 16 * 16
  · obtain ⟨l, hl, hb⟩ := hx
    exact clean_get h hl hb (h.clean l hl (hc l hl))
  · push Not at hx
    exact viewByte_of_none hx

/-- An operation keeps every byte a load sees, unless it invalidates dirty lines of the D-cache (20_memory.md R121, R131). -/
theorem State.sameMem_cacheEffect {s : State} (h : s.Wf = true) (op : BitVec 5) (va : Word)
    (hop : op.toNat ∉ [0x0A, 0x18] ∨ ∀ l ∈ s.dcache.lines, l.dirty = false) : SameMem s (s.cacheEffect op va) := by
  have hd := ((State.wf_iff s).mp h).data
  have hread : ∀ b : Word, s.readByte b = viewByte s.dcache.lines s.dataMem b.toNat := State.readByte_eq_view hd
  have hca : cacheLineOp op = true → s.cacheIgnored op va = false → s.CacheableBase (s.dGeometry.base va.toNat) := by
    intro hl hc
    apply State.cacheableBase_base
    simpa [State.cacheIgnored, hl] using hc
  have hn : ∀ n, op.toNat = n → n ∈ [0x00, 0x01, 0x08, 0x09, 0x0D, 0x0E] → cacheLineOp op = true := by
    intro n hn hm
    simp only [cacheLineOp, hn, decide_eq_true hm]
  have hset : ∀ x : Cache × Memory, DataOk s.CacheableBase x.1.lines x.2 →
      (∀ a, viewByte x.1.lines x.2 a = viewByte s.dcache.lines s.dataMem a) → SameMem s (s.setD x) :=
    fun x hx hv b => (readByte_setD hx b).trans ((hv _).trans (hread b).symm)
  have hhit : ∀ x : Cache × Memory, DataOk s.CacheableBase x.1.lines x.2 →
      (∀ a, viewByte x.1.lines x.2 a = viewByte s.dcache.lines s.dataMem a) → SameMem s (s.onHit va.toNat x) := by
    intro x hx hv
    unfold State.onHit
    split
    · exact hset x hx hv
    · exact fun _ => rfl
  unfold State.cacheEffect
  split
  · exact fun _ => rfl
  next hc =>
  have hc' : s.cacheIgnored op va = false := by simpa using hc
  unfold State.cacheOp
  simp only
  split
  · exact fun _ => rfl
  · exact fun _ => rfl
  · exact fun _ => rfl
  · next e =>
    exact State.sameMem_setFill h (hd.prefetch rfl va.isLt (hca (hn _ e (by decide)) hc')) Cache.prefetch_keeps
      fun a => viewByte_prefetch hd rfl _ a
  · next e =>
    exact State.sameMem_setFill h (hd.prefetchLock rfl va.isLt (hca (hn _ e (by decide)) hc')) Cache.prefetchLock_keeps
      fun a => viewByte_prefetchLock hd rfl _ a
  · next e =>
    have hcl := hop.resolve_left (by simp [e])
    intro b
    rw [hread, readByte_setDcache (hd.invalidate _ _), viewByte_of_clean hd hcl]
    exact viewByte_of_clean (hd.invalidate s.dGeometry va.toNat) (fun l hl => hcl l (List.mem_of_mem_filter hl)) _
  · exact hhit _ (hd.writeOut _ _) fun a => viewByte_writeOut hd _ _ a
  · exact hhit _ (hd.flush _ _) fun a => viewByte_flush hd _ _ a
  · exact fun _ => rfl
  · exact fun _ => rfl
  · next e =>
    have hcl := hop.resolve_left (by simp [e])
    intro b
    rw [hread, readByte_setDcache ⟨hd.wf, hd.inRange, by simp [Cache.empty], by simp [Cache.empty], by simp [Cache.empty]⟩,
      viewByte_of_clean hd hcl]
    exact viewByte_of_none (by simp [Cache.empty])
  · exact s.readByte_drainAll
  · intro b
    unfold State.toggleWb
    simp only
    split
    · exact s.readByte_drainAll b
    · rfl
  · exact fun _ => rfl
  · exact fun _ => rfl
  · exact hset _ hd.writeOutAll fun a => viewByte_writeOutAll hd a
  · exact hset _ (hd.flushAll _) fun a => (viewByte_of_none (by simp [Cache.flushAll])).trans (viewByte_map_clean hd a)
  · exact fun _ => rfl

end Sys2Proof.Machine
end

