-- ==== Sys2Proof/Laws/Debug.lean ====
section
/-!
SUPPORT. What the breakpoint unit answers, said once: which register of drseg stands at an address and what a store to it
changes (60_exceptions.md R704 to R711), what a word load or store of it does, and the byte lanes of an access
(20_memory.md R85).
-/
namespace Sys2Proof.Machine

/-! ## The registers of one breakpoint -/

theorem InstrBreak.read_some (b : InstrBreak) (f : Nat) (v : Word) : b.read f = some v ↔
    (f = 0x0 ∧ v = b.addr) ∨ (f = 0x4 ∧ v = b.mask) ∨ (f = 0x8 ∧ v = b.asid.setWidth 32) ∨
      (f = 0xC ∧ v = b.control) := by
  unfold InstrBreak.read
  split <;> simp_all [eq_comm]

theorem DataBreak.read_some (b : DataBreak) (f : Nat) (v : Word) : b.read f = some v ↔
    (f = 0x00 ∧ v = b.addr) ∨ (f = 0x04 ∧ v = b.mask) ∨ (f = 0x08 ∧ v = b.asid.setWidth 32) ∨
      (f = 0x0C ∧ v = b.control) ∨ (f = 0x10 ∧ v = b.value) := by
  unfold DataBreak.read
  split <;> simp_all [eq_comm]

/-! ## The registers at their addresses -/

theorem drsegReg_instr {off n f : Nat} : drsegReg off = some (.instr n f) ↔
    n < 16 ∧ f < 0x100 ∧ off = 0x2000 + 0x100 * n + f := by
  unfold drsegReg
  repeat' split
  all_goals simp only [Option.some.injEq, reduceCtorEq, DrsegReg.instr.injEq, false_iff, not_and]
  all_goals omega

theorem drsegReg_data {off n f : Nat} : drsegReg off = some (.data n f) ↔
    n < 16 ∧ f < 0x100 ∧ off = 0x4000 + 0x100 * n + f := by
  unfold drsegReg
  repeat' split
  all_goals simp only [Option.some.injEq, reduceCtorEq, DrsegReg.data.injEq, false_iff, not_and]
  all_goals omega

theorem drsegReg_dcr {off : Nat} : drsegReg off = some .dcr ↔ off = 0 := by
  unfold drsegReg
  repeat' split
  all_goals simp_all

theorem drsegReg_ibs {off : Nat} : drsegReg off = some .ibs ↔ off = 0x1000 := by
  unfold drsegReg
  repeat' split
  all_goals simp_all

theorem drsegReg_dbs {off : Nat} : drsegReg off = some .dbs ↔ off = 0x3000 := by
  unfold drsegReg
  repeat' split
  all_goals simp_all

/-- The register of drseg at an offset reads as `v`, by the spec's list. -/
theorem State.drsegRead_some (s : State) {a : Word} {off : Nat} (h : a.toNat = 0xFFFF0000 + off) (v : Word) :
    s.drsegRead off = some v ↔ DrsegHolds s a v := by
  have e0 : a = 0xFFFF0000#32 ↔ off = 0 := by
    rw [← BitVec.toNat_inj, BitVec.toNat_ofNat]; omega
  have e1 : a = 0xFFFF1000#32 ↔ off = 0x1000 := by
    rw [← BitVec.toNat_inj, BitVec.toNat_ofNat]; omega
  have e3 : a = 0xFFFF3000#32 ↔ off = 0x3000 := by
    rw [← BitVec.toNat_inj, BitVec.toNat_ofNat]; omega
  unfold State.drsegRead DrsegHolds
  rw [e0, e1, e3]
  have hI : ∀ n k, n < 16 → k < 0x100 → a.toNat = 0xFFFF2000 + k + 0x100 * n → drsegReg off = some (.instr n k) :=
    fun n k h1 h2 h3 => drsegReg_instr.mpr ⟨h1, h2, by omega⟩
  have hD : ∀ n k, n < 16 → k < 0x100 → a.toNat = 0xFFFF4000 + k + 0x100 * n → drsegReg off = some (.data n k) :=
    fun n k h1 h2 h3 => drsegReg_data.mpr ⟨h1, h2, by omega⟩
  constructor
  · intro hv
    split at hv
    · simp at hv
    · next hr => exact .inl ⟨drsegReg_dcr.mp hr, (Option.some.inj hv).symm⟩
    · next hr => exact .inr (.inl ⟨drsegReg_ibs.mp hr, (Option.some.inj hv).symm⟩)
    · next hr => exact .inr (.inr (.inl ⟨drsegReg_dbs.mp hr, (Option.some.inj hv).symm⟩))
    · next n f hr =>
      obtain ⟨h1, h2, h3⟩ := drsegReg_instr.mp hr
      obtain ⟨b, hb, hv⟩ := Option.bind_eq_some_iff.mp hv
      refine .inr (.inr (.inr (.inl ⟨n, b, h1, hb, ?_⟩)))
      rcases (b.read_some f v).mp hv with ⟨rfl, rfl⟩ | ⟨rfl, rfl⟩ | ⟨rfl, rfl⟩ | ⟨rfl, rfl⟩
      · exact .inl ⟨by omega, rfl⟩
      · exact .inr (.inl ⟨by omega, rfl⟩)
      · exact .inr (.inr (.inl ⟨by omega, rfl⟩))
      · exact .inr (.inr (.inr ⟨by omega, rfl⟩))
    · next n f hr =>
      obtain ⟨h1, h2, h3⟩ := drsegReg_data.mp hr
      obtain ⟨b, hb, hv⟩ := Option.bind_eq_some_iff.mp hv
      refine .inr (.inr (.inr (.inr ⟨n, b, h1, hb, ?_⟩)))
      rcases (b.read_some f v).mp hv with ⟨rfl, rfl⟩ | ⟨rfl, rfl⟩ | ⟨rfl, rfl⟩ | ⟨rfl, rfl⟩ | ⟨rfl, rfl⟩
      · exact .inl ⟨by omega, rfl⟩
      · exact .inr (.inl ⟨by omega, rfl⟩)
      · exact .inr (.inr (.inl ⟨by omega, rfl⟩))
      · exact .inr (.inr (.inr (.inl ⟨by omega, rfl⟩)))
      · exact .inr (.inr (.inr (.inr ⟨by omega, rfl⟩)))
  · rintro (⟨h0, rfl⟩ | ⟨h0, rfl⟩ | ⟨h0, rfl⟩ | ⟨n, b, hn, hb, hf⟩ | ⟨n, b, hn, hb, hf⟩)
    · rw [drsegReg_dcr.mpr h0]; rfl
    · rw [drsegReg_ibs.mpr h0]; rfl
    · rw [drsegReg_dbs.mpr h0]; rfl
    · rcases hf with ⟨hf, rfl⟩ | ⟨hf, rfl⟩ | ⟨hf, rfl⟩ | ⟨hf, rfl⟩
      · simp [hI n 0x0 hn (by decide) (by omega), hb, InstrBreak.read]
      · simp [hI n 0x4 hn (by decide) (by omega), hb, InstrBreak.read]
      · simp [hI n 0x8 hn (by decide) (by omega), hb, InstrBreak.read]
      · rw [hI n 0xC hn (by decide) (by omega)]; simp only [hb]; rfl
    · rcases hf with ⟨hf, rfl⟩ | ⟨hf, rfl⟩ | ⟨hf, rfl⟩ | ⟨hf, rfl⟩ | ⟨hf, rfl⟩
      · simp [hD n 0x00 hn (by decide) (by omega), hb, DataBreak.read]
      · simp [hD n 0x04 hn (by decide) (by omega), hb, DataBreak.read]
      · simp [hD n 0x08 hn (by decide) (by omega), hb, DataBreak.read]
      · rw [hD n 0x0C hn (by decide) (by omega)]; simp only [hb]; rfl
      · simp [hD n 0x10 hn (by decide) (by omega), hb, DataBreak.read]

/-- Where a read of drseg answers nothing the spec lists no register. -/
theorem State.not_drsegHolds {s : State} {a : Word} {off : Nat} (h : a.toNat = 0xFFFF0000 + off)
    (hr : s.drsegRead off = none) (v : Word) : ¬ DrsegHolds s a v := by
  rw [← s.drsegRead_some h, hr]
  simp

/-- A store to a register of drseg does what the spec's list says. -/
theorem State.drsegWrite_stored {s t : State} {a v : Word} {off : Nat} (h : a.toNat = 0xFFFF0000 + off)
    (hs : DrsegStored s a v t) : s.drsegWrite off v = t := by
  have e0 : a = 0xFFFF0000#32 → off = 0 := by
    rw [← BitVec.toNat_inj, BitVec.toNat_ofNat]; omega
  have e1 : a = 0xFFFF1000#32 → off = 0x1000 := by
    rw [← BitVec.toNat_inj, BitVec.toNat_ofNat]; omega
  have e3 : a = 0xFFFF3000#32 → off = 0x3000 := by
    rw [← BitVec.toNat_inj, BitVec.toNat_ofNat]; omega
  have hI : ∀ n k, n < 16 → k < 0x100 → a.toNat = 0xFFFF2000 + k + 0x100 * n → drsegReg off = some (.instr n k) :=
    fun n k h1 h2 h3 => drsegReg_instr.mpr ⟨h1, h2, by omega⟩
  have hD : ∀ n k, n < 16 → k < 0x100 → a.toNat = 0xFFFF4000 + k + 0x100 * n → drsegReg off = some (.data n k) :=
    fun n k h1 h2 h3 => drsegReg_data.mpr ⟨h1, h2, by omega⟩
  unfold State.drsegWrite
  rcases hs with ⟨h0 | h0 | h0, rfl⟩ | ⟨n, f, hn, -, rfl, hf⟩ | ⟨n, f, hn, -, rfl, hf⟩
  · rw [drsegReg_dcr.mpr (e0 h0)]
  · rw [drsegReg_ibs.mpr (e1 h0)]
  · rw [drsegReg_dbs.mpr (e3 h0)]
  · rcases hf with ⟨hf, hb⟩ | ⟨hf, hb⟩ | ⟨hf, hb⟩ | ⟨hf, hb⟩ <;> obtain rfl := funext hb
    · rw [hI n 0x0 hn (by decide) (by omega)]; rfl
    · rw [hI n 0x4 hn (by decide) (by omega)]; rfl
    · rw [hI n 0x8 hn (by decide) (by omega)]; rfl
    · rw [hI n 0xC hn (by decide) (by omega)]; rfl
  · rcases hf with ⟨hf, hb⟩ | ⟨hf, hb⟩ | ⟨hf, hb⟩ | ⟨hf, hb⟩ | ⟨hf, hb⟩ <;> obtain rfl := funext hb
    · rw [hD n 0x00 hn (by decide) (by omega)]; rfl
    · rw [hD n 0x04 hn (by decide) (by omega)]; rfl
    · rw [hD n 0x08 hn (by decide) (by omega)]; rfl
    · rw [hD n 0x0C hn (by decide) (by omega)]; rfl
    · rw [hD n 0x10 hn (by decide) (by omega)]; rfl

/-! ## Word loads and stores -/

/-- A listed register stands in drseg, on a word boundary. -/
theorem DrsegHolds.address {s : State} {a v : Word} (h : DrsegHolds s a v) :
    0xFFFF0000 ≤ a.toNat ∧ a.toNat % 4 = 0 := by
  rcases h with ⟨rfl, -⟩ | ⟨rfl, -⟩ | ⟨rfl, -⟩ | ⟨n, b, -, -, h⟩ | ⟨n, b, -, -, h⟩
  · decide
  · decide
  · decide
  · omega
  · omega

/-- A register that can be stored to can be read. -/
theorem DrsegStored.holds {s t : State} {a v : Word} (h : DrsegStored s a v t) : ∃ u, DrsegHolds s a u := by
  rcases h with ⟨h | h | h, -⟩ | ⟨n, f, hn, hl, -, h⟩ | ⟨n, f, hn, hl, -, h⟩
  · exact ⟨_, .inl ⟨h, rfl⟩⟩
  · exact ⟨_, .inr (.inl ⟨h, rfl⟩)⟩
  · exact ⟨_, .inr (.inr (.inl ⟨h, rfl⟩))⟩
  all_goals have hb := List.getElem?_eq_getElem hl
  · rcases h with h | h | h | h
    · exact ⟨_, .inr (.inr (.inr (.inl ⟨n, _, hn, hb, .inl ⟨h.1, rfl⟩⟩)))⟩
    · exact ⟨_, .inr (.inr (.inr (.inl ⟨n, _, hn, hb, .inr (.inl ⟨h.1, rfl⟩)⟩)))⟩
    · exact ⟨_, .inr (.inr (.inr (.inl ⟨n, _, hn, hb, .inr (.inr (.inl ⟨h.1, rfl⟩))⟩)))⟩
    · exact ⟨_, .inr (.inr (.inr (.inl ⟨n, _, hn, hb, .inr (.inr (.inr ⟨h.1, rfl⟩))⟩)))⟩
  · rcases h with h | h | h | h | h
    · exact ⟨_, .inr (.inr (.inr (.inr ⟨n, _, hn, hb, .inl ⟨h.1, rfl⟩⟩)))⟩
    · exact ⟨_, .inr (.inr (.inr (.inr ⟨n, _, hn, hb, .inr (.inl ⟨h.1, rfl⟩)⟩)))⟩
    · exact ⟨_, .inr (.inr (.inr (.inr ⟨n, _, hn, hb, .inr (.inr (.inl ⟨h.1, rfl⟩))⟩)))⟩
    · exact ⟨_, .inr (.inr (.inr (.inr ⟨n, _, hn, hb, .inr (.inr (.inr (.inl ⟨h.1, rfl⟩)))⟩)))⟩
    · exact ⟨_, .inr (.inr (.inr (.inr ⟨n, _, hn, hb, .inr (.inr (.inr (.inr ⟨h.1, rfl⟩)))⟩)))⟩

/-- A word access of debug mode on a word boundary passes the checks before the last one. -/
theorem State.addrError_word {s : State} (hd : s.dreg.dm = true) {a : Word} (ha : a.toNat % 4 = 0) (k : Access) :
    s.addrError k a 4 = none := by
  have h0 : a.getLsbD 0 = false := by
    rw [BitVec.getLsbD, Nat.testBit_zero]
    simpa using (by omega : a.toNat % 2 = 0)
  have h1 : a.getLsbD 1 = false := by
    rw [BitVec.getLsbD, Nat.testBit_succ, Nat.testBit_zero]
    simpa using (by omega : a.toNat / 2 % 2 = 0)
  have hm : misaligned a 4 = false := by
    simp only [misaligned, h0, h1]
    rfl
  simp [State.addrError, hm, State.forbidden, State.userMode, hd]

/-- What stops an access to drseg: nothing at a listed register. -/
theorem State.debugSegmentStop_drseg {s : State} {a v : Word} (h : DrsegHolds s a v) :
    s.debugSegmentStop a 4 = none ∧ s.drsegWord a = v := by
  have hg := h.address.1
  have hr : s.drsegRead (a.toNat - 0xFFFF0000) = some v := (s.drsegRead_some (by omega) v).mpr h
  have hin : inDrseg a = true := by simpa [inDrseg] using hg
  simp [State.debugSegmentStop, hin, hr, State.drsegWord]

/-- What stops a word access to drseg where no register is listed. -/
theorem State.debugSegmentStop_unlisted {s : State} {a : Word} (ha : 0xFFFF0000 ≤ a.toNat)
    (h : ∀ v, ¬ DrsegHolds s a v) : s.debugSegmentStop a 4 = some .drsegAccess := by
  have hr : s.drsegRead (a.toNat - 0xFFFF0000) = none := by
    rw [Option.eq_none_iff_forall_not_mem]
    exact fun v hv => h v ((s.drsegRead_some (by omega) v).mp hv)
  have hin : inDrseg a = true := by simpa [inDrseg] using ha
  simp [State.debugSegmentStop, hin, hr]

/-- A word load of debug mode at a listed register reads it and leaves nothing else; one that may not bypass buffered stores waits
for them. -/
theorem loadThen_drseg {s : State} (hd : s.dreg.dm = true) {x : Acc} (hx : x.bytes = 4)
    (hb : s.busError .load x.addr = false) {v : Word} (h : DrsegHolds s x.addr v) (w : Width)
    (put : Word → State → State) : loadThen w s x none put = .next ((put v s.waitDrain).advance w) := by
  obtain ⟨hg, ha⟩ := h.address
  obtain ⟨hs, hv⟩ := State.debugSegmentStop_drseg h
  have hin : inDrseg x.addr = true := by simpa [inDrseg] using hg
  have hf : s.waitDrain.fillD x.addr = s.waitDrain := by
    simp [State.fillD, s.waitDrain.cacheable_debug (a := x.addr) (by simp only [debugSegment, decide_eq_true_eq]; omega)]
  simp [loadThen, State.checkLoad, State.checkAccess, State.loadBreak, State.ddblaHit, State.ddblvHit, hd, hx,
    State.addrError_word hd ha, State.busCheck, hb, hs, onCheck, done, State.loadValue, State.drsegAt, hin, hv,
    State.afterLoad, hf]

/-- A word store of debug mode at a listed register writes it and leaves nothing else. -/
theorem storeThen_drseg {s t : State} (hd : s.dreg.dm = true) {x : Acc} (hx : x.bytes = 4) {v : Word}
    (hb : s.busError .store x.addr = false) (h : DrsegStored s x.addr v t) (w : Width) (put : State → State) :
    storeThen w s x v none put = .next ((put t).advance w) := by
  obtain ⟨u, hu⟩ := h.holds
  obtain ⟨hg, ha⟩ := hu.address
  obtain ⟨hs, -⟩ := State.debugSegmentStop_drseg hu
  have hin : inDrseg x.addr = true := by simpa [inDrseg] using hg
  have hw : s.drsegWrite (x.addr.toNat - 0xFFFF0000) v = t := State.drsegWrite_stored (by omega) h
  simp [storeThen, State.checkStore, State.checkAccess, State.storeBreak, State.ddbsHit, hd, hx,
    State.addrError_word hd ha, State.busCheck, hb, hs, onCheck, done, State.drsegAt, hin, State.afterStore, hw]

/-! ## The lanes of an access -/

/-- The lanes the breakpoint unit sees are those of the table of R85, at every address. -/
theorem Acc.view_lanes (x : Acc) (be : Bool) (vs : List Byte) :
    tableLanes be x.addr x.bytes (x.view be vs).lanes := by
  have hm : x.addr.toNat % 4 = (x.addr.setWidth 2).toNat := by simp [BitVec.toNat_setWidth]
  have h1 : x.addr.getLsbD 1 = (x.addr.setWidth 2).getLsbD 1 := by simp
  have h2 : (x.addr &&& 0xFFFFFFFE#32).setWidth 2 = x.addr.setWidth 2 &&& 2#2 := by
    rw [BitVec.setWidth_and]; rfl
  have h4 : (x.addr &&& 0xFFFFFFFC#32).setWidth 2 = 0#2 := by
    rw [BitVec.setWidth_and]; exact BitVec.and_zero
  have ha : ∀ a : Word, (a + 1#32).setWidth 2 = a.setWidth 2 + 1#2 := fun a => BitVec.setWidth_add _ _ (by decide)
  have e1 : (1 : Nat) ≠ 2 ∧ (1 : Nat) ≠ 4 ∧ (4 : Nat) ≠ 2 := by decide
  refine ⟨fun hn => ?_, fun hn => ?_, fun hn => ?_⟩
  · simp only [Acc.view, Acc.laneAddr, hn, e1.1, e1.2.1, if_false, lanesOf, laneOf, hm]
    generalize x.addr.setWidth 2 = y
    revert y be; decide
  · simp only [Acc.view, Acc.laneAddr, hn, lanesOf, laneOf, h1, if_true, ha, h2]
    generalize x.addr.setWidth 2 = y
    revert y be; decide
  · simp only [Acc.view, Acc.laneAddr, hn, e1.2.2, if_false, if_true, lanesOf, laneOf, wordAddr, ha, h4]
    revert be; decide

/-! ## Fetching a register -/

/-- The halves that change places are the word rotated by sixteen. -/
theorem fetchSwapped_eq (be swap : Bool) (w : Word) :
    fetchSwapped be swap w = if be = false ∧ swap = true then w.rotateRight 16 else w := by
  have : w.extractLsb' 0 16 ++ w.extractLsb' 16 16 = w.rotateRight 16 := by
    apply BitVec.eq_of_getLsbD_eq
    intro i hi
    rw [BitVec.getLsbD_append, BitVec.getLsbD_rotateRight]
    by_cases h : i < 16
    · simp [h]
    · simp [h, hi, show i - 16 < 16 by omega]
  cases be <;> cases swap <;> simp [fetchSwapped, this]

/-- A fetch from a register of drseg passes its checks and reads the register (60_exceptions.md R694). -/
theorem State.pcWord_drseg {s : State} (hd : s.dreg.dm = true) (hp : s.pc.getLsbD 0 = false)
    (hb : s.busError .fetch s.pc = false) (ha : 0xFFFF0000 ≤ (wordAddr s.pc).toNat) {v : Word}
    (hv : DrsegHolds s (wordAddr s.pc) v) :
    s.checkFetch = .ok ∧ s.pcWord = fetchSwapped s.cfg.bigEndian s.cfg.leFetchSwap v := by
  obtain ⟨off, ho⟩ := Nat.exists_eq_add_of_le ha
  have hr : s.drsegRead ((wordAddr s.pc).toNat - 0xFFFF0000) = some v := by
    rw [show (wordAddr s.pc).toNat - 0xFFFF0000 = off by omega]
    exact (s.drsegRead_some ho v).mpr hv
  have hin : inDrseg (wordAddr s.pc) = true := by simpa [inDrseg] using ha
  constructor
  · simp [State.checkFetch, hb, State.forbidden, State.userMode, hd, State.fetchStop, State.debugSegmentStop, hin, hr]
    simpa using hp
  · simp [State.pcWord, State.fetchWord, State.drsegAt, hd, hin, State.drsegWord, hr]

end Sys2Proof.Machine
end

