-- ==== Sys2Proof/Laws/Encoding.lean ====
section
/-!
SUPPORT. What a field of an encoded instruction is: one lemma per instruction format and field (spec/30_encoding.md R155 to
R164), and the round trips of the small codes.
-/
set_option linter.unusedSimpArgs false

namespace Sys2Proof

/-! ## Fields of a concatenation -/

theorem extract_append_high {m n : Nat} (a : BitVec m) (b : BitVec n) (st len : Nat) (h : n ≤ st) :
    (a ++ b).extractLsb' st len = a.extractLsb' (st - n) len := by
  ext i hi
  simp only [BitVec.getElem_extractLsb', BitVec.getLsbD_append]
  rw [if_neg (by omega)]
  congr 1
  omega

theorem extract_append_low {m n : Nat} (a : BitVec m) (b : BitVec n) (st len : Nat) (h : st + len ≤ n) :
    (a ++ b).extractLsb' st len = b.extractLsb' st len := by
  ext i hi
  simp only [BitVec.getElem_extractLsb', BitVec.getLsbD_append]
  rw [if_pos (by omega)]

theorem extract_all {n : Nat} (a : BitVec n) : a.extractLsb' 0 n = a := by
  ext i hi
  simp

theorem getLsbD_zero_extract {n : Nat} (a : BitVec n) : a.getLsbD 0 = (a.extractLsb' 0 1).getLsbD 0 := by simp

/-! ## The small codes -/

@[simp] theorem Cond.ofBits_toBits (c : Cond) : Cond.ofBits c.toBits = c := by cases c <;> decide

@[simp] theorem TestCond.ofBits_toBits (c : TestCond) : TestCond.ofBits c.toBits = c := by cases c <;> decide

@[simp] theorem bit_getLsbD (b : Bool) : (bit b).getLsbD 0 = b := by cases b <;> decide

@[simp] theorem cond_in_field (c : Cond) : Cond.ofBits ((0#1 ++ c.toBits).extractLsb' 0 4) = c := by
  cases c <;> decide

@[simp] theorem tc_in_field (c : TestCond) : TestCond.ofBits ((0#3 ++ c.toBits).extractLsb' 0 2) = c := by
  cases c <;> decide


/-! ## `special` -/

@[simp] theorem special_fOp (d : BitVec 5) (a : BitVec 5) (b : BitVec 5) (f : BitVec 6) (c : BitVec 1) :
    fOp (special d a b f c) = 0#5 := by
  show BitVec.extractLsb' (n := 5 + 5 + 5 + 5 + 3 + 6 + 1) 25 5 (0#5 ++ d ++ a ++ b ++ 0#3 ++ f ++ c) = _
  simp (disch := omega) only [extract_append_high, extract_append_low, extract_all, Nat.reduceSub]

@[simp] theorem special_fD (d : BitVec 5) (a : BitVec 5) (b : BitVec 5) (f : BitVec 6) (c : BitVec 1) :
    fD (special d a b f c) = d := by
  show BitVec.extractLsb' (n := 5 + 5 + 5 + 5 + 3 + 6 + 1) 20 5 (0#5 ++ d ++ a ++ b ++ 0#3 ++ f ++ c) = _
  simp (disch := omega) only [extract_append_high, extract_append_low, extract_all, Nat.reduceSub]

@[simp] theorem special_fA (d : BitVec 5) (a : BitVec 5) (b : BitVec 5) (f : BitVec 6) (c : BitVec 1) :
    fA (special d a b f c) = a := by
  show BitVec.extractLsb' (n := 5 + 5 + 5 + 5 + 3 + 6 + 1) 15 5 (0#5 ++ d ++ a ++ b ++ 0#3 ++ f ++ c) = _
  simp (disch := omega) only [extract_append_high, extract_append_low, extract_all, Nat.reduceSub]

@[simp] theorem special_fB (d : BitVec 5) (a : BitVec 5) (b : BitVec 5) (f : BitVec 6) (c : BitVec 1) :
    fB (special d a b f c) = b := by
  show BitVec.extractLsb' (n := 5 + 5 + 5 + 5 + 3 + 6 + 1) 10 5 (0#5 ++ d ++ a ++ b ++ 0#3 ++ f ++ c) = _
  simp (disch := omega) only [extract_append_high, extract_append_low, extract_all, Nat.reduceSub]

@[simp] theorem special_fFunc6 (d : BitVec 5) (a : BitVec 5) (b : BitVec 5) (f : BitVec 6) (c : BitVec 1) :
    fFunc6 (special d a b f c) = f := by
  show BitVec.extractLsb' (n := 5 + 5 + 5 + 5 + 3 + 6 + 1) 1 6 (0#5 ++ d ++ a ++ b ++ 0#3 ++ f ++ c) = _
  simp (disch := omega) only [extract_append_high, extract_append_low, extract_all, Nat.reduceSub]

@[simp] theorem special_fCu (d : BitVec 5) (a : BitVec 5) (b : BitVec 5) (f : BitVec 6) (c : BitVec 1) :
    fCu (special d a b f c) = c.getLsbD 0 := by
  rw [fCu, getLsbD_zero_extract]
  show (BitVec.extractLsb' (n := 5 + 5 + 5 + 5 + 3 + 6 + 1) 0 1 (0#5 ++ d ++ a ++ b ++ 0#3 ++ f ++ c)).getLsbD 0 = _
  simp (disch := omega) only [extract_append_low, extract_all]

@[simp] theorem special_fCond (d : BitVec 5) (a : BitVec 5) (b : BitVec 5) (f : BitVec 6) (c : BitVec 1) :
    fCond (special d a b f c) = Cond.ofBits (b.extractLsb' 0 4) := by
  show Cond.ofBits (BitVec.extractLsb' (n := 5 + 5 + 5 + 5 + 3 + 6 + 1) 10 4 (0#5 ++ d ++ a ++ b ++ 0#3 ++ f ++ c)) = _
  simp (disch := omega) only [extract_append_high, extract_append_low, extract_all, Nat.reduceSub]

@[simp] theorem special_fTc (d : BitVec 5) (a : BitVec 5) (b : BitVec 5) (f : BitVec 6) (c : BitVec 1) :
    fTc (special d a b f c) = TestCond.ofBits (d.extractLsb' 0 2) := by
  show TestCond.ofBits (BitVec.extractLsb' (n := 5 + 5 + 5 + 5 + 3 + 6 + 1) 20 2 (0#5 ++ d ++ a ++ b ++ 0#3 ++ f ++ c)) = _
  simp (disch := omega) only [extract_append_high, extract_append_low, extract_all, Nat.reduceSub]

@[simp] theorem special_zero3 (d : BitVec 5) (a : BitVec 5) (b : BitVec 5) (f : BitVec 6) (c : BitVec 1) :
    (special d a b f c).extractLsb' 7 3 = 0#3 := by
  show BitVec.extractLsb' (n := 5 + 5 + 5 + 5 + 3 + 6 + 1) 7 3 (0#5 ++ d ++ a ++ b ++ 0#3 ++ f ++ c) = _
  simp (disch := omega) only [extract_append_high, extract_append_low, extract_all, Nat.reduceSub]

@[simp] theorem special_high3 (d : BitVec 5) (a : BitVec 5) (b : BitVec 5) (f : BitVec 6) (c : BitVec 1) :
    (special d a b f c).extractLsb' 22 3 = d.extractLsb' 2 3 := by
  show BitVec.extractLsb' (n := 5 + 5 + 5 + 5 + 3 + 6 + 1) 22 3 (0#5 ++ d ++ a ++ b ++ 0#3 ++ f ++ c) = _
  simp (disch := omega) only [extract_append_high, extract_append_low, extract_all, Nat.reduceSub]


/-! ## `syscallForm` -/

@[simp] theorem syscallForm_fOp (p : BitVec 15) :
    fOp (syscallForm p) = 0#5 := by
  show BitVec.extractLsb' (n := 5 + 15 + 3 + 6 + 1) 25 5 (0#5 ++ p ++ 0#3 ++ 1#6 ++ 0#1) = _
  simp (disch := omega) only [extract_append_high, extract_append_low, extract_all, Nat.reduceSub]

@[simp] theorem syscallForm_fSpar (p : BitVec 15) :
    fSpar (syscallForm p) = p := by
  show BitVec.extractLsb' (n := 5 + 15 + 3 + 6 + 1) 10 15 (0#5 ++ p ++ 0#3 ++ 1#6 ++ 0#1) = _
  simp (disch := omega) only [extract_append_high, extract_append_low, extract_all, Nat.reduceSub]

@[simp] theorem syscallForm_fFunc6 (p : BitVec 15) :
    fFunc6 (syscallForm p) = 1#6 := by
  show BitVec.extractLsb' (n := 5 + 15 + 3 + 6 + 1) 1 6 (0#5 ++ p ++ 0#3 ++ 1#6 ++ 0#1) = _
  simp (disch := omega) only [extract_append_high, extract_append_low, extract_all, Nat.reduceSub]

@[simp] theorem syscallForm_fCu (p : BitVec 15) :
    fCu (syscallForm p) = false := by
  rw [fCu, getLsbD_zero_extract]
  show (BitVec.extractLsb' (n := 5 + 15 + 3 + 6 + 1) 0 1 (0#5 ++ p ++ 0#3 ++ 1#6 ++ 0#1)).getLsbD 0 = _
  simp (disch := omega) only [extract_append_low, extract_all]; rfl


/-! ## `iform` -/

@[simp] theorem iform_fOp (o : BitVec 5) (d : BitVec 5) (f : BitVec 3) (x : BitVec 16) (c : BitVec 1) :
    fOp (iform o d f x c) = o := by
  show BitVec.extractLsb' (n := 5 + 5 + 3 + 16 + 1) 25 5 (o ++ d ++ f ++ x ++ c) = _
  simp (disch := omega) only [extract_append_high, extract_append_low, extract_all, Nat.reduceSub]

@[simp] theorem iform_fD (o : BitVec 5) (d : BitVec 5) (f : BitVec 3) (x : BitVec 16) (c : BitVec 1) :
    fD (iform o d f x c) = d := by
  show BitVec.extractLsb' (n := 5 + 5 + 3 + 16 + 1) 20 5 (o ++ d ++ f ++ x ++ c) = _
  simp (disch := omega) only [extract_append_high, extract_append_low, extract_all, Nat.reduceSub]

@[simp] theorem iform_fI3 (o : BitVec 5) (d : BitVec 5) (f : BitVec 3) (x : BitVec 16) (c : BitVec 1) :
    fI3 (iform o d f x c) = f := by
  show BitVec.extractLsb' (n := 5 + 5 + 3 + 16 + 1) 17 3 (o ++ d ++ f ++ x ++ c) = _
  simp (disch := omega) only [extract_append_high, extract_append_low, extract_all, Nat.reduceSub]

@[simp] theorem iform_fImm16 (o : BitVec 5) (d : BitVec 5) (f : BitVec 3) (x : BitVec 16) (c : BitVec 1) :
    fImm16 (iform o d f x c) = x := by
  show BitVec.extractLsb' (n := 5 + 5 + 3 + 16 + 1) 1 16 (o ++ d ++ f ++ x ++ c) = _
  simp (disch := omega) only [extract_append_high, extract_append_low, extract_all, Nat.reduceSub]

@[simp] theorem iform_fCu (o : BitVec 5) (d : BitVec 5) (f : BitVec 3) (x : BitVec 16) (c : BitVec 1) :
    fCu (iform o d f x c) = c.getLsbD 0 := by
  rw [fCu, getLsbD_zero_extract]
  show (BitVec.extractLsb' (n := 5 + 5 + 3 + 16 + 1) 0 1 (o ++ d ++ f ++ x ++ c)).getLsbD 0 = _
  simp (disch := omega) only [extract_append_low, extract_all]


/-! ## `riform` -/

@[simp] theorem riform_fOp (o : BitVec 5) (d : BitVec 5) (a : BitVec 5) (x : BitVec 14) (c : BitVec 1) :
    fOp (riform o d a x c) = o := by
  show BitVec.extractLsb' (n := 5 + 5 + 5 + 14 + 1) 25 5 (o ++ d ++ a ++ x ++ c) = _
  simp (disch := omega) only [extract_append_high, extract_append_low, extract_all, Nat.reduceSub]

@[simp] theorem riform_fD (o : BitVec 5) (d : BitVec 5) (a : BitVec 5) (x : BitVec 14) (c : BitVec 1) :
    fD (riform o d a x c) = d := by
  show BitVec.extractLsb' (n := 5 + 5 + 5 + 14 + 1) 20 5 (o ++ d ++ a ++ x ++ c) = _
  simp (disch := omega) only [extract_append_high, extract_append_low, extract_all, Nat.reduceSub]

@[simp] theorem riform_fA (o : BitVec 5) (d : BitVec 5) (a : BitVec 5) (x : BitVec 14) (c : BitVec 1) :
    fA (riform o d a x c) = a := by
  show BitVec.extractLsb' (n := 5 + 5 + 5 + 14 + 1) 15 5 (o ++ d ++ a ++ x ++ c) = _
  simp (disch := omega) only [extract_append_high, extract_append_low, extract_all, Nat.reduceSub]

@[simp] theorem riform_fImm14 (o : BitVec 5) (d : BitVec 5) (a : BitVec 5) (x : BitVec 14) (c : BitVec 1) :
    fImm14 (riform o d a x c) = x := by
  show BitVec.extractLsb' (n := 5 + 5 + 5 + 14 + 1) 1 14 (o ++ d ++ a ++ x ++ c) = _
  simp (disch := omega) only [extract_append_high, extract_append_low, extract_all, Nat.reduceSub]

@[simp] theorem riform_fCu (o : BitVec 5) (d : BitVec 5) (a : BitVec 5) (x : BitVec 14) (c : BitVec 1) :
    fCu (riform o d a x c) = c.getLsbD 0 := by
  rw [fCu, getLsbD_zero_extract]
  show (BitVec.extractLsb' (n := 5 + 5 + 5 + 14 + 1) 0 1 (o ++ d ++ a ++ x ++ c)).getLsbD 0 = _
  simp (disch := omega) only [extract_append_low, extract_all]


/-! ## `jform` -/

@[simp] theorem jform_fOp (x : BitVec 24) (c : BitVec 1) :
    fOp (jform x c) = 2#5 := by
  show BitVec.extractLsb' (n := 5 + 24 + 1) 25 5 (2#5 ++ x ++ c) = _
  simp (disch := omega) only [extract_append_high, extract_append_low, extract_all, Nat.reduceSub]

@[simp] theorem jform_fDisp24 (x : BitVec 24) (c : BitVec 1) :
    fDisp24 (jform x c) = x := by
  show BitVec.extractLsb' (n := 5 + 24 + 1) 1 24 (2#5 ++ x ++ c) = _
  simp (disch := omega) only [extract_append_high, extract_append_low, extract_all, Nat.reduceSub]

@[simp] theorem jform_fCu (x : BitVec 24) (c : BitVec 1) :
    fCu (jform x c) = c.getLsbD 0 := by
  rw [fCu, getLsbD_zero_extract]
  show (BitVec.extractLsb' (n := 5 + 24 + 1) 0 1 (2#5 ++ x ++ c)).getLsbD 0 = _
  simp (disch := omega) only [extract_append_low, extract_all]


/-! ## `offsetForm` -/

@[simp] theorem offsetForm_fOp (o : BitVec 5) (d : BitVec 5) (a : BitVec 5) (x : BitVec 15) :
    fOp (offsetForm o d a x) = o := by
  show BitVec.extractLsb' (n := 5 + 5 + 5 + 15) 25 5 (o ++ d ++ a ++ x) = _
  simp (disch := omega) only [extract_append_high, extract_append_low, extract_all, Nat.reduceSub]

@[simp] theorem offsetForm_fD (o : BitVec 5) (d : BitVec 5) (a : BitVec 5) (x : BitVec 15) :
    fD (offsetForm o d a x) = d := by
  show BitVec.extractLsb' (n := 5 + 5 + 5 + 15) 20 5 (o ++ d ++ a ++ x) = _
  simp (disch := omega) only [extract_append_high, extract_append_low, extract_all, Nat.reduceSub]

@[simp] theorem offsetForm_fA (o : BitVec 5) (d : BitVec 5) (a : BitVec 5) (x : BitVec 15) :
    fA (offsetForm o d a x) = a := by
  show BitVec.extractLsb' (n := 5 + 5 + 5 + 15) 15 5 (o ++ d ++ a ++ x) = _
  simp (disch := omega) only [extract_append_high, extract_append_low, extract_all, Nat.reduceSub]

@[simp] theorem offsetForm_fImm15 (o : BitVec 5) (d : BitVec 5) (a : BitVec 5) (x : BitVec 15) :
    fImm15 (offsetForm o d a x) = x := by
  show BitVec.extractLsb' (n := 5 + 5 + 5 + 15) 0 15 (o ++ d ++ a ++ x) = _
  simp (disch := omega) only [extract_append_high, extract_append_low, extract_all, Nat.reduceSub]


/-! ## `rixform` -/

@[simp] theorem rixform_fOp (o : BitVec 5) (d : BitVec 5) (a : BitVec 5) (x : BitVec 12) (f : BitVec 3) :
    fOp (rixform o d a x f) = o := by
  show BitVec.extractLsb' (n := 5 + 5 + 5 + 12 + 3) 25 5 (o ++ d ++ a ++ x ++ f) = _
  simp (disch := omega) only [extract_append_high, extract_append_low, extract_all, Nat.reduceSub]

@[simp] theorem rixform_fD (o : BitVec 5) (d : BitVec 5) (a : BitVec 5) (x : BitVec 12) (f : BitVec 3) :
    fD (rixform o d a x f) = d := by
  show BitVec.extractLsb' (n := 5 + 5 + 5 + 12 + 3) 20 5 (o ++ d ++ a ++ x ++ f) = _
  simp (disch := omega) only [extract_append_high, extract_append_low, extract_all, Nat.reduceSub]

@[simp] theorem rixform_fA (o : BitVec 5) (d : BitVec 5) (a : BitVec 5) (x : BitVec 12) (f : BitVec 3) :
    fA (rixform o d a x f) = a := by
  show BitVec.extractLsb' (n := 5 + 5 + 5 + 12 + 3) 15 5 (o ++ d ++ a ++ x ++ f) = _
  simp (disch := omega) only [extract_append_high, extract_append_low, extract_all, Nat.reduceSub]

@[simp] theorem rixform_fImm12 (o : BitVec 5) (d : BitVec 5) (a : BitVec 5) (x : BitVec 12) (f : BitVec 3) :
    fImm12 (rixform o d a x f) = x := by
  show BitVec.extractLsb' (n := 5 + 5 + 5 + 12 + 3) 3 12 (o ++ d ++ a ++ x ++ f) = _
  simp (disch := omega) only [extract_append_high, extract_append_low, extract_all, Nat.reduceSub]

@[simp] theorem rixform_fLow3 (o : BitVec 5) (d : BitVec 5) (a : BitVec 5) (x : BitVec 12) (f : BitVec 3) :
    fLow3 (rixform o d a x f) = f := by
  show BitVec.extractLsb' (n := 5 + 5 + 5 + 12 + 3) 0 3 (o ++ d ++ a ++ x ++ f) = _
  simp (disch := omega) only [extract_append_high, extract_append_low, extract_all, Nat.reduceSub]


/-! ## `ceform` -/

@[simp] theorem ceform_fOp (u : BitVec 5) (a : BitVec 5) (b : BitVec 5) (v : BitVec 5) (f : BitVec 5) :
    fOp (ceform u a b v f) = 28#5 := by
  show BitVec.extractLsb' (n := 5 + 5 + 5 + 5 + 5 + 5) 25 5 (28#5 ++ u ++ a ++ b ++ v ++ f) = _
  simp (disch := omega) only [extract_append_high, extract_append_low, extract_all, Nat.reduceSub]

@[simp] theorem ceform_fD (u : BitVec 5) (a : BitVec 5) (b : BitVec 5) (v : BitVec 5) (f : BitVec 5) :
    fD (ceform u a b v f) = u := by
  show BitVec.extractLsb' (n := 5 + 5 + 5 + 5 + 5 + 5) 20 5 (28#5 ++ u ++ a ++ b ++ v ++ f) = _
  simp (disch := omega) only [extract_append_high, extract_append_low, extract_all, Nat.reduceSub]

@[simp] theorem ceform_fA (u : BitVec 5) (a : BitVec 5) (b : BitVec 5) (v : BitVec 5) (f : BitVec 5) :
    fA (ceform u a b v f) = a := by
  show BitVec.extractLsb' (n := 5 + 5 + 5 + 5 + 5 + 5) 15 5 (28#5 ++ u ++ a ++ b ++ v ++ f) = _
  simp (disch := omega) only [extract_append_high, extract_append_low, extract_all, Nat.reduceSub]

@[simp] theorem ceform_fB (u : BitVec 5) (a : BitVec 5) (b : BitVec 5) (v : BitVec 5) (f : BitVec 5) :
    fB (ceform u a b v f) = b := by
  show BitVec.extractLsb' (n := 5 + 5 + 5 + 5 + 5 + 5) 10 5 (28#5 ++ u ++ a ++ b ++ v ++ f) = _
  simp (disch := omega) only [extract_append_high, extract_append_low, extract_all, Nat.reduceSub]

@[simp] theorem ceform_fE (u : BitVec 5) (a : BitVec 5) (b : BitVec 5) (v : BitVec 5) (f : BitVec 5) :
    fE (ceform u a b v f) = v := by
  show BitVec.extractLsb' (n := 5 + 5 + 5 + 5 + 5 + 5) 5 5 (28#5 ++ u ++ a ++ b ++ v ++ f) = _
  simp (disch := omega) only [extract_append_high, extract_append_low, extract_all, Nat.reduceSub]

@[simp] theorem ceform_fF5 (u : BitVec 5) (a : BitVec 5) (b : BitVec 5) (v : BitVec 5) (f : BitVec 5) :
    fF5 (ceform u a b v f) = f := by
  show BitVec.extractLsb' (n := 5 + 5 + 5 + 5 + 5 + 5) 0 5 (28#5 ++ u ++ a ++ b ++ v ++ f) = _
  simp (disch := omega) only [extract_append_high, extract_append_low, extract_all, Nat.reduceSub]


/-! ## `crform` -/

@[simp] theorem crform_fOp (d : BitVec 5) (a : BitVec 5) (o : BitVec 3) (i : BitVec 1) (m : BitVec 1) :
    fOp (crform d a o i m) = 6#5 := by
  show BitVec.extractLsb' (n := 5 + 5 + 5 + 7 + 3 + 2 + 1 + 1 + 1) 25 5 (6#5 ++ d ++ a ++ 0#7 ++ o ++ 0#2 ++ i ++ 0#1 ++ m) = _
  simp (disch := omega) only [extract_append_high, extract_append_low, extract_all, Nat.reduceSub]

@[simp] theorem crform_fD (d : BitVec 5) (a : BitVec 5) (o : BitVec 3) (i : BitVec 1) (m : BitVec 1) :
    fD (crform d a o i m) = d := by
  show BitVec.extractLsb' (n := 5 + 5 + 5 + 7 + 3 + 2 + 1 + 1 + 1) 20 5 (6#5 ++ d ++ a ++ 0#7 ++ o ++ 0#2 ++ i ++ 0#1 ++ m) = _
  simp (disch := omega) only [extract_append_high, extract_append_low, extract_all, Nat.reduceSub]

@[simp] theorem crform_fA (d : BitVec 5) (a : BitVec 5) (o : BitVec 3) (i : BitVec 1) (m : BitVec 1) :
    fA (crform d a o i m) = a := by
  show BitVec.extractLsb' (n := 5 + 5 + 5 + 7 + 3 + 2 + 1 + 1 + 1) 15 5 (6#5 ++ d ++ a ++ 0#7 ++ o ++ 0#2 ++ i ++ 0#1 ++ m) = _
  simp (disch := omega) only [extract_append_high, extract_append_low, extract_all, Nat.reduceSub]

@[simp] theorem crform_fCrOp (d : BitVec 5) (a : BitVec 5) (o : BitVec 3) (i : BitVec 1) (m : BitVec 1) :
    fCrOp (crform d a o i m) = o := by
  show BitVec.extractLsb' (n := 5 + 5 + 5 + 7 + 3 + 2 + 1 + 1 + 1) 5 3 (6#5 ++ d ++ a ++ 0#7 ++ o ++ 0#2 ++ i ++ 0#1 ++ m) = _
  simp (disch := omega) only [extract_append_high, extract_append_low, extract_all, Nat.reduceSub]

@[simp] theorem crform_fCp (d : BitVec 5) (a : BitVec 5) (o : BitVec 3) (i : BitVec 1) (m : BitVec 1) :
    fCp (crform d a o i m) = 0#2 := by
  show BitVec.extractLsb' (n := 5 + 5 + 5 + 7 + 3 + 2 + 1 + 1 + 1) 3 2 (6#5 ++ d ++ a ++ 0#7 ++ o ++ 0#2 ++ i ++ 0#1 ++ m) = _
  simp (disch := omega) only [extract_append_high, extract_append_low, extract_all, Nat.reduceSub]

@[simp] theorem crform_fCu (d : BitVec 5) (a : BitVec 5) (o : BitVec 3) (i : BitVec 1) (m : BitVec 1) :
    fCu (crform d a o i m) = m.getLsbD 0 := by
  rw [fCu, getLsbD_zero_extract]
  show (BitVec.extractLsb' (n := 5 + 5 + 5 + 7 + 3 + 2 + 1 + 1 + 1) 0 1 (6#5 ++ d ++ a ++ 0#7 ++ o ++ 0#2 ++ i ++ 0#1 ++ m)).getLsbD 0 = _
  simp (disch := omega) only [extract_append_low, extract_all]


/-! ## `copform` -/

@[simp] theorem copform_fOp (d : BitVec 5) (a : BitVec 5) (x : BitVec 10) (z : BitVec 2) (f : BitVec 3) :
    fOp (copform d a x z f) = 6#5 := by
  show BitVec.extractLsb' (n := 5 + 5 + 5 + 10 + 2 + 3) 25 5 (6#5 ++ d ++ a ++ x ++ z ++ f) = _
  simp (disch := omega) only [extract_append_high, extract_append_low, extract_all, Nat.reduceSub]

@[simp] theorem copform_fD (d : BitVec 5) (a : BitVec 5) (x : BitVec 10) (z : BitVec 2) (f : BitVec 3) :
    fD (copform d a x z f) = d := by
  show BitVec.extractLsb' (n := 5 + 5 + 5 + 10 + 2 + 3) 20 5 (6#5 ++ d ++ a ++ x ++ z ++ f) = _
  simp (disch := omega) only [extract_append_high, extract_append_low, extract_all, Nat.reduceSub]

@[simp] theorem copform_fA (d : BitVec 5) (a : BitVec 5) (x : BitVec 10) (z : BitVec 2) (f : BitVec 3) :
    fA (copform d a x z f) = a := by
  show BitVec.extractLsb' (n := 5 + 5 + 5 + 10 + 2 + 3) 15 5 (6#5 ++ d ++ a ++ x ++ z ++ f) = _
  simp (disch := omega) only [extract_append_high, extract_append_low, extract_all, Nat.reduceSub]

@[simp] theorem copform_fImm10 (d : BitVec 5) (a : BitVec 5) (x : BitVec 10) (z : BitVec 2) (f : BitVec 3) :
    fImm10 (copform d a x z f) = x := by
  show BitVec.extractLsb' (n := 5 + 5 + 5 + 10 + 2 + 3) 5 10 (6#5 ++ d ++ a ++ x ++ z ++ f) = _
  simp (disch := omega) only [extract_append_high, extract_append_low, extract_all, Nat.reduceSub]

@[simp] theorem copform_fCp (d : BitVec 5) (a : BitVec 5) (x : BitVec 10) (z : BitVec 2) (f : BitVec 3) :
    fCp (copform d a x z f) = z := by
  show BitVec.extractLsb' (n := 5 + 5 + 5 + 10 + 2 + 3) 3 2 (6#5 ++ d ++ a ++ x ++ z ++ f) = _
  simp (disch := omega) only [extract_append_high, extract_append_low, extract_all, Nat.reduceSub]

@[simp] theorem copform_fLow3 (d : BitVec 5) (a : BitVec 5) (x : BitVec 10) (z : BitVec 2) (f : BitVec 3) :
    fLow3 (copform d a x z f) = f := by
  show BitVec.extractLsb' (n := 5 + 5 + 5 + 10 + 2 + 3) 0 3 (6#5 ++ d ++ a ++ x ++ z ++ f) = _
  simp (disch := omega) only [extract_append_high, extract_append_low, extract_all, Nat.reduceSub]


/-! ## `rform16` -/

@[simp] theorem rform16_hOp (o : BitVec 3) (d : BitVec 4) (a : BitVec 4) (f : BitVec 4) :
    hOp (rform16 o d a f) = o := by
  show BitVec.extractLsb' (n := 3 + 4 + 4 + 4) 12 3 (o ++ d ++ a ++ f) = _
  simp (disch := omega) only [extract_append_high, extract_append_low, extract_all, Nat.reduceSub]

@[simp] theorem rform16_hD (o : BitVec 3) (d : BitVec 4) (a : BitVec 4) (f : BitVec 4) :
    hD (rform16 o d a f) = d := by
  show BitVec.extractLsb' (n := 3 + 4 + 4 + 4) 8 4 (o ++ d ++ a ++ f) = _
  simp (disch := omega) only [extract_append_high, extract_append_low, extract_all, Nat.reduceSub]

@[simp] theorem rform16_hA (o : BitVec 3) (d : BitVec 4) (a : BitVec 4) (f : BitVec 4) :
    hA (rform16 o d a f) = a := by
  show BitVec.extractLsb' (n := 3 + 4 + 4 + 4) 4 4 (o ++ d ++ a ++ f) = _
  simp (disch := omega) only [extract_append_high, extract_append_low, extract_all, Nat.reduceSub]

@[simp] theorem rform16_hFunc4 (o : BitVec 3) (d : BitVec 4) (a : BitVec 4) (f : BitVec 4) :
    hFunc4 (rform16 o d a f) = f := by
  show BitVec.extractLsb' (n := 3 + 4 + 4 + 4) 0 4 (o ++ d ++ a ++ f) = _
  simp (disch := omega) only [extract_append_high, extract_append_low, extract_all, Nat.reduceSub]


/-! ## `iform16` -/

@[simp] theorem iform16_hOp (o : BitVec 3) (d : BitVec 4) (x : BitVec 5) (f : BitVec 3) :
    hOp (iform16 o d x f) = o := by
  show BitVec.extractLsb' (n := 3 + 4 + 5 + 3) 12 3 (o ++ d ++ x ++ f) = _
  simp (disch := omega) only [extract_append_high, extract_append_low, extract_all, Nat.reduceSub]

@[simp] theorem iform16_hD (o : BitVec 3) (d : BitVec 4) (x : BitVec 5) (f : BitVec 3) :
    hD (iform16 o d x f) = d := by
  show BitVec.extractLsb' (n := 3 + 4 + 5 + 3) 8 4 (o ++ d ++ x ++ f) = _
  simp (disch := omega) only [extract_append_high, extract_append_low, extract_all, Nat.reduceSub]

@[simp] theorem iform16_hImm5 (o : BitVec 3) (d : BitVec 4) (x : BitVec 5) (f : BitVec 3) :
    hImm5 (iform16 o d x f) = x := by
  show BitVec.extractLsb' (n := 3 + 4 + 5 + 3) 3 5 (o ++ d ++ x ++ f) = _
  simp (disch := omega) only [extract_append_high, extract_append_low, extract_all, Nat.reduceSub]

@[simp] theorem iform16_hFunc3 (o : BitVec 3) (d : BitVec 4) (x : BitVec 5) (f : BitVec 3) :
    hFunc3 (iform16 o d x f) = f := by
  show BitVec.extractLsb' (n := 3 + 4 + 5 + 3) 0 3 (o ++ d ++ x ++ f) = _
  simp (disch := omega) only [extract_append_high, extract_append_low, extract_all, Nat.reduceSub]


/-! ## `wideForm16` -/

@[simp] theorem wideForm16_hOp (o : BitVec 3) (d : BitVec 4) (x : BitVec 8) :
    hOp (wideForm16 o d x) = o := by
  show BitVec.extractLsb' (n := 3 + 4 + 8) 12 3 (o ++ d ++ x) = _
  simp (disch := omega) only [extract_append_high, extract_append_low, extract_all, Nat.reduceSub]

@[simp] theorem wideForm16_hD (o : BitVec 3) (d : BitVec 4) (x : BitVec 8) :
    hD (wideForm16 o d x) = d := by
  show BitVec.extractLsb' (n := 3 + 4 + 8) 8 4 (o ++ d ++ x) = _
  simp (disch := omega) only [extract_append_high, extract_append_low, extract_all, Nat.reduceSub]

@[simp] theorem wideForm16_hImm8 (o : BitVec 3) (d : BitVec 4) (x : BitVec 8) :
    hImm8 (wideForm16 o d x) = x := by
  show BitVec.extractLsb' (n := 3 + 4 + 8) 0 8 (o ++ d ++ x) = _
  simp (disch := omega) only [extract_append_high, extract_append_low, extract_all, Nat.reduceSub]


/-! ## `jform16` -/

@[simp] theorem jform16_hOp (x : BitVec 11) (c : BitVec 1) :
    hOp (jform16 x c) = 3#3 := by
  show BitVec.extractLsb' (n := 3 + 11 + 1) 12 3 (3#3 ++ x ++ c) = _
  simp (disch := omega) only [extract_append_high, extract_append_low, extract_all, Nat.reduceSub]

@[simp] theorem jform16_hDisp11 (x : BitVec 11) (c : BitVec 1) :
    hDisp11 (jform16 x c) = x := by
  show BitVec.extractLsb' (n := 3 + 11 + 1) 1 11 (3#3 ++ x ++ c) = _
  simp (disch := omega) only [extract_append_high, extract_append_low, extract_all, Nat.reduceSub]

@[simp] theorem jform16_lk (x : BitVec 11) (c : BitVec 1) :
    (jform16 x c).getLsbD 0 = c.getLsbD 0 := by
  rw [getLsbD_zero_extract]
  show (BitVec.extractLsb' (n := 3 + 11 + 1) 0 1 (3#3 ++ x ++ c)).getLsbD 0 = _
  simp (disch := omega) only [extract_append_low, extract_all]


/-! ## `stackForm16` -/

@[simp] theorem stackForm16_hOp (d : BitVec 5) (a : BitVec 3) (f : BitVec 4) :
    hOp (stackForm16 d a f) = 2#3 := by
  show BitVec.extractLsb' (n := 3 + 4 + 1 + 3 + 4) 12 3 (2#3 ++ d.extractLsb' 0 4 ++ d.extractLsb' 4 1 ++ a ++ f) = _
  simp (disch := omega) only [extract_append_high, extract_append_low, extract_all, Nat.reduceSub]

@[simp] theorem stackForm16_hStackD (d : BitVec 5) (a : BitVec 3) (f : BitVec 4) : hStackD (stackForm16 d a f) = d := by
  show BitVec.extractLsb' (n := 3 + 4 + 1 + 3 + 4) 7 1 (2#3 ++ d.extractLsb' 0 4 ++ d.extractLsb' 4 1 ++ a ++ f) ++
    BitVec.extractLsb' (n := 3 + 4 + 1 + 3 + 4) 8 4 (2#3 ++ d.extractLsb' 0 4 ++ d.extractLsb' 4 1 ++ a ++ f) = d
  simp (disch := omega) only [extract_append_high, extract_append_low, extract_all, Nat.reduceSub]
  ext i hi
  simp only [BitVec.getElem_append, BitVec.getElem_extractLsb']
  split
  · simp only [Nat.zero_add]; exact BitVec.getLsbD_eq_getElem hi
  · have : i = 4 := by omega
    subst this
    rfl

@[simp] theorem stackForm16_hStackA (d : BitVec 5) (a : BitVec 3) (f : BitVec 4) :
    hStackA (stackForm16 d a f) = a := by
  show BitVec.extractLsb' (n := 3 + 4 + 1 + 3 + 4) 4 3 (2#3 ++ d.extractLsb' 0 4 ++ d.extractLsb' 4 1 ++ a ++ f) = _
  simp (disch := omega) only [extract_append_high, extract_append_low, extract_all, Nat.reduceSub]

@[simp] theorem stackForm16_hFunc4 (d : BitVec 5) (a : BitVec 3) (f : BitVec 4) :
    hFunc4 (stackForm16 d a f) = f := by
  show BitVec.extractLsb' (n := 3 + 4 + 1 + 3 + 4) 0 4 (2#3 ++ d.extractLsb' 0 4 ++ d.extractLsb' 4 1 ++ a ++ f) = _
  simp (disch := omega) only [extract_append_high, extract_append_low, extract_all, Nat.reduceSub]


/-! ## Words -/

/-- A word that holds an instruction first is split back to it (30_encoding.md R141, R142). -/
@[simp] theorem firstCode_wordOf (c : Code) : firstCode (wordOf c) = some c := by
  cases c with
  | w32 i =>
    have hh : (wordOf (.w32 i)).extractLsb' 16 15 = i.extractLsb' 15 15 := by
      show BitVec.extractLsb' (n := 1 + 15 + 1 + 15) 16 15 (1#1 ++ i.extractLsb' 15 15 ++ 1#1 ++ i.extractLsb' 0 15) = _
      simp (disch := omega) only [extract_append_high, extract_append_low, extract_all, Nat.reduceSub]
    have hl : (wordOf (.w32 i)).extractLsb' 0 15 = i.extractLsb' 0 15 := by
      show BitVec.extractLsb' (n := 1 + 15 + 1 + 15) 0 15 (1#1 ++ i.extractLsb' 15 15 ++ 1#1 ++ i.extractLsb' 0 15) = _
      simp (disch := omega) only [extract_append_low, extract_all]
    have e31 : (wordOf (.w32 i)).getLsbD 31 = true := by
      simp only [wordOf, BitVec.getLsbD_append]; simp
    have e15 : (wordOf (.w32 i)).getLsbD 15 = true := by
      simp only [wordOf, BitVec.getLsbD_append]; simp
    have e : i.extractLsb' 15 15 ++ i.extractLsb' 0 15 = i := by
      apply BitVec.eq_of_getLsbD_eq
      intro k hk
      simp only [BitVec.getLsbD_append, BitVec.getLsbD_extractLsb']
      split
      · simp_all
      · rw [decide_eq_true (by omega : k - 15 < 15), Bool.true_and]; congr 1; omega
    simp only [firstCode, wordFormat, e31, e15, hh, hl]
    exact congrArg (fun x => some (Code.w32 x)) e
  | w16 h =>
    have hh : (wordOf (.w16 h)).extractLsb' 16 15 = h := by
      show BitVec.extractLsb' (n := 1 + 15 + 16) 16 15 (0#1 ++ h ++ 0#16) = _
      simp (disch := omega) only [extract_append_high, extract_append_low, extract_all, Nat.reduceSub]
    have e31 : (wordOf (.w16 h)).getLsbD 31 = false := by
      simp only [wordOf, BitVec.getLsbD_append]; simp
    have e15 : (wordOf (.w16 h)).getLsbD 15 = false := by
      simp only [wordOf, BitVec.getLsbD_append]; simp
    simp only [firstCode, wordFormat, e31, e15, hh]

end Sys2Proof
end

