-- ==== Sys2Proof/Laws/PerInstr.lean ====
section
/-!
SUPPORT. For every constructor of `Instr`: its encoding, laid out in a memory word with its P-bits, is what a fetch splits off
that word again (30_encoding.md R141, R142, R146).
-/

/-- The word that holds an instruction gives its code back. -/
def Sys2Proof.Laws.RoundTrip.Statement (i : Sys2Proof.Instr) : Prop :=
  Sys2Proof.firstCode (Sys2Proof.wordOf (Sys2Proof.encode i)) = some (Sys2Proof.encode i)

theorem Sys2Proof.Laws.RoundTrip.add (rd : BitVec 5) (ra : BitVec 5) (rb : BitVec 5) (cu : Bool) :
    Sys2Proof.Laws.RoundTrip.Statement (Sys2Proof.Instr.add rd ra rb cu) :=
  Sys2Proof.firstCode_wordOf _
theorem Sys2Proof.Laws.RoundTrip.addc (rd : BitVec 5) (ra : BitVec 5) (rb : BitVec 5) (cu : Bool) :
    Sys2Proof.Laws.RoundTrip.Statement (Sys2Proof.Instr.addc rd ra rb cu) :=
  Sys2Proof.firstCode_wordOf _
theorem Sys2Proof.Laws.RoundTrip.sub (rd : BitVec 5) (ra : BitVec 5) (rb : BitVec 5) (cu : Bool) :
    Sys2Proof.Laws.RoundTrip.Statement (Sys2Proof.Instr.sub rd ra rb cu) :=
  Sys2Proof.firstCode_wordOf _
theorem Sys2Proof.Laws.RoundTrip.subc (rd : BitVec 5) (ra : BitVec 5) (rb : BitVec 5) (cu : Bool) :
    Sys2Proof.Laws.RoundTrip.Statement (Sys2Proof.Instr.subc rd ra rb cu) :=
  Sys2Proof.firstCode_wordOf _
theorem Sys2Proof.Laws.RoundTrip.neg (rd : BitVec 5) (rb : BitVec 5) (cu : Bool) :
    Sys2Proof.Laws.RoundTrip.Statement (Sys2Proof.Instr.neg rd rb cu) :=
  Sys2Proof.firstCode_wordOf _
theorem Sys2Proof.Laws.RoundTrip.cmp (tc : Sys2Proof.TestCond) (ra : BitVec 5) (rb : BitVec 5) :
    Sys2Proof.Laws.RoundTrip.Statement (Sys2Proof.Instr.cmp tc ra rb) :=
  Sys2Proof.firstCode_wordOf _
theorem Sys2Proof.Laws.RoundTrip.cmpz (tc : Sys2Proof.TestCond) (ra : BitVec 5) :
    Sys2Proof.Laws.RoundTrip.Statement (Sys2Proof.Instr.cmpz tc ra) :=
  Sys2Proof.firstCode_wordOf _
theorem Sys2Proof.Laws.RoundTrip.and (rd : BitVec 5) (ra : BitVec 5) (rb : BitVec 5) (cu : Bool) :
    Sys2Proof.Laws.RoundTrip.Statement (Sys2Proof.Instr.and rd ra rb cu) :=
  Sys2Proof.firstCode_wordOf _
theorem Sys2Proof.Laws.RoundTrip.or (rd : BitVec 5) (ra : BitVec 5) (rb : BitVec 5) (cu : Bool) :
    Sys2Proof.Laws.RoundTrip.Statement (Sys2Proof.Instr.or rd ra rb cu) :=
  Sys2Proof.firstCode_wordOf _
theorem Sys2Proof.Laws.RoundTrip.xor (rd : BitVec 5) (ra : BitVec 5) (rb : BitVec 5) (cu : Bool) :
    Sys2Proof.Laws.RoundTrip.Statement (Sys2Proof.Instr.xor rd ra rb cu) :=
  Sys2Proof.firstCode_wordOf _
theorem Sys2Proof.Laws.RoundTrip.not (rd : BitVec 5) (ra : BitVec 5) (cu : Bool) :
    Sys2Proof.Laws.RoundTrip.Statement (Sys2Proof.Instr.not rd ra cu) :=
  Sys2Proof.firstCode_wordOf _
theorem Sys2Proof.Laws.RoundTrip.bitclr (rd : BitVec 5) (ra : BitVec 5) (bn : BitVec 5) :
    Sys2Proof.Laws.RoundTrip.Statement (Sys2Proof.Instr.bitclr rd ra bn) :=
  Sys2Proof.firstCode_wordOf _
theorem Sys2Proof.Laws.RoundTrip.bitset (rd : BitVec 5) (ra : BitVec 5) (bn : BitVec 5) :
    Sys2Proof.Laws.RoundTrip.Statement (Sys2Proof.Instr.bitset rd ra bn) :=
  Sys2Proof.firstCode_wordOf _
theorem Sys2Proof.Laws.RoundTrip.bittgl (rd : BitVec 5) (ra : BitVec 5) (bn : BitVec 5) :
    Sys2Proof.Laws.RoundTrip.Statement (Sys2Proof.Instr.bittgl rd ra bn) :=
  Sys2Proof.firstCode_wordOf _
theorem Sys2Proof.Laws.RoundTrip.bittst (ra : BitVec 5) (bn : BitVec 5) :
    Sys2Proof.Laws.RoundTrip.Statement (Sys2Proof.Instr.bittst ra bn) :=
  Sys2Proof.firstCode_wordOf _
theorem Sys2Proof.Laws.RoundTrip.nop :
    Sys2Proof.Laws.RoundTrip.Statement Sys2Proof.Instr.nop :=
  Sys2Proof.firstCode_wordOf _
theorem Sys2Proof.Laws.RoundTrip.sll (rd : BitVec 5) (ra : BitVec 5) (rb : BitVec 5) (cu : Bool) :
    Sys2Proof.Laws.RoundTrip.Statement (Sys2Proof.Instr.sll rd ra rb cu) :=
  Sys2Proof.firstCode_wordOf _
theorem Sys2Proof.Laws.RoundTrip.slli (rd : BitVec 5) (ra : BitVec 5) (sa : BitVec 5) (cu : Bool) :
    Sys2Proof.Laws.RoundTrip.Statement (Sys2Proof.Instr.slli rd ra sa cu) :=
  Sys2Proof.firstCode_wordOf _
theorem Sys2Proof.Laws.RoundTrip.srl (rd : BitVec 5) (ra : BitVec 5) (rb : BitVec 5) (cu : Bool) :
    Sys2Proof.Laws.RoundTrip.Statement (Sys2Proof.Instr.srl rd ra rb cu) :=
  Sys2Proof.firstCode_wordOf _
theorem Sys2Proof.Laws.RoundTrip.srli (rd : BitVec 5) (ra : BitVec 5) (sa : BitVec 5) (cu : Bool) :
    Sys2Proof.Laws.RoundTrip.Statement (Sys2Proof.Instr.srli rd ra sa cu) :=
  Sys2Proof.firstCode_wordOf _
theorem Sys2Proof.Laws.RoundTrip.sra (rd : BitVec 5) (ra : BitVec 5) (rb : BitVec 5) (cu : Bool) :
    Sys2Proof.Laws.RoundTrip.Statement (Sys2Proof.Instr.sra rd ra rb cu) :=
  Sys2Proof.firstCode_wordOf _
theorem Sys2Proof.Laws.RoundTrip.srai (rd : BitVec 5) (ra : BitVec 5) (sa : BitVec 5) (cu : Bool) :
    Sys2Proof.Laws.RoundTrip.Statement (Sys2Proof.Instr.srai rd ra sa cu) :=
  Sys2Proof.firstCode_wordOf _
theorem Sys2Proof.Laws.RoundTrip.rol (rd : BitVec 5) (ra : BitVec 5) (rb : BitVec 5) (cu : Bool) :
    Sys2Proof.Laws.RoundTrip.Statement (Sys2Proof.Instr.rol rd ra rb cu) :=
  Sys2Proof.firstCode_wordOf _
theorem Sys2Proof.Laws.RoundTrip.roli (rd : BitVec 5) (ra : BitVec 5) (sa : BitVec 5) (cu : Bool) :
    Sys2Proof.Laws.RoundTrip.Statement (Sys2Proof.Instr.roli rd ra sa cu) :=
  Sys2Proof.firstCode_wordOf _
theorem Sys2Proof.Laws.RoundTrip.ror (rd : BitVec 5) (ra : BitVec 5) (rb : BitVec 5) (cu : Bool) :
    Sys2Proof.Laws.RoundTrip.Statement (Sys2Proof.Instr.ror rd ra rb cu) :=
  Sys2Proof.firstCode_wordOf _
theorem Sys2Proof.Laws.RoundTrip.rori (rd : BitVec 5) (ra : BitVec 5) (sa : BitVec 5) (cu : Bool) :
    Sys2Proof.Laws.RoundTrip.Statement (Sys2Proof.Instr.rori rd ra sa cu) :=
  Sys2Proof.firstCode_wordOf _
theorem Sys2Proof.Laws.RoundTrip.rolc (rd : BitVec 5) (ra : BitVec 5) (rb : BitVec 5) :
    Sys2Proof.Laws.RoundTrip.Statement (Sys2Proof.Instr.rolc rd ra rb) :=
  Sys2Proof.firstCode_wordOf _
theorem Sys2Proof.Laws.RoundTrip.rolic (rd : BitVec 5) (ra : BitVec 5) (sa : BitVec 5) :
    Sys2Proof.Laws.RoundTrip.Statement (Sys2Proof.Instr.rolic rd ra sa) :=
  Sys2Proof.firstCode_wordOf _
theorem Sys2Proof.Laws.RoundTrip.rorc (rd : BitVec 5) (ra : BitVec 5) (rb : BitVec 5) :
    Sys2Proof.Laws.RoundTrip.Statement (Sys2Proof.Instr.rorc rd ra rb) :=
  Sys2Proof.firstCode_wordOf _
theorem Sys2Proof.Laws.RoundTrip.roric (rd : BitVec 5) (ra : BitVec 5) (sa : BitVec 5) :
    Sys2Proof.Laws.RoundTrip.Statement (Sys2Proof.Instr.roric rd ra sa) :=
  Sys2Proof.firstCode_wordOf _
theorem Sys2Proof.Laws.RoundTrip.extsb (rd : BitVec 5) (ra : BitVec 5) (cu : Bool) :
    Sys2Proof.Laws.RoundTrip.Statement (Sys2Proof.Instr.extsb rd ra cu) :=
  Sys2Proof.firstCode_wordOf _
theorem Sys2Proof.Laws.RoundTrip.extsh (rd : BitVec 5) (ra : BitVec 5) (cu : Bool) :
    Sys2Proof.Laws.RoundTrip.Statement (Sys2Proof.Instr.extsh rd ra cu) :=
  Sys2Proof.firstCode_wordOf _
theorem Sys2Proof.Laws.RoundTrip.extzb (rd : BitVec 5) (ra : BitVec 5) (cu : Bool) :
    Sys2Proof.Laws.RoundTrip.Statement (Sys2Proof.Instr.extzb rd ra cu) :=
  Sys2Proof.firstCode_wordOf _
theorem Sys2Proof.Laws.RoundTrip.extzh (rd : BitVec 5) (ra : BitVec 5) (cu : Bool) :
    Sys2Proof.Laws.RoundTrip.Statement (Sys2Proof.Instr.extzh rd ra cu) :=
  Sys2Proof.firstCode_wordOf _
theorem Sys2Proof.Laws.RoundTrip.mvcond (rd : BitVec 5) (ra : BitVec 5) (ec : Sys2Proof.Cond) :
    Sys2Proof.Laws.RoundTrip.Statement (Sys2Proof.Instr.mvcond rd ra ec) :=
  Sys2Proof.firstCode_wordOf _
theorem Sys2Proof.Laws.RoundTrip.mfsr (rd : BitVec 5) (srn : BitVec 5) :
    Sys2Proof.Laws.RoundTrip.Statement (Sys2Proof.Instr.mfsr rd srn) :=
  Sys2Proof.firstCode_wordOf _
theorem Sys2Proof.Laws.RoundTrip.mtsr (ra : BitVec 5) (srn : BitVec 5) :
    Sys2Proof.Laws.RoundTrip.Statement (Sys2Proof.Instr.mtsr ra srn) :=
  Sys2Proof.firstCode_wordOf _
theorem Sys2Proof.Laws.RoundTrip.tcond (ec : Sys2Proof.Cond) :
    Sys2Proof.Laws.RoundTrip.Statement (Sys2Proof.Instr.tcond ec) :=
  Sys2Proof.firstCode_wordOf _
theorem Sys2Proof.Laws.RoundTrip.brcond (ra : BitVec 5) (bc : Sys2Proof.Cond) :
    Sys2Proof.Laws.RoundTrip.Statement (Sys2Proof.Instr.brcond ra bc) :=
  Sys2Proof.firstCode_wordOf _
theorem Sys2Proof.Laws.RoundTrip.brcondl (ra : BitVec 5) (bc : Sys2Proof.Cond) :
    Sys2Proof.Laws.RoundTrip.Statement (Sys2Proof.Instr.brcondl ra bc) :=
  Sys2Proof.firstCode_wordOf _
theorem Sys2Proof.Laws.RoundTrip.lcb (ra : BitVec 5) :
    Sys2Proof.Laws.RoundTrip.Statement (Sys2Proof.Instr.lcb ra) :=
  Sys2Proof.firstCode_wordOf _
theorem Sys2Proof.Laws.RoundTrip.lcw (rd : BitVec 5) (ra : BitVec 5) :
    Sys2Proof.Laws.RoundTrip.Statement (Sys2Proof.Instr.lcw rd ra) :=
  Sys2Proof.firstCode_wordOf _
theorem Sys2Proof.Laws.RoundTrip.lce (rd : BitVec 5) (ra : BitVec 5) :
    Sys2Proof.Laws.RoundTrip.Statement (Sys2Proof.Instr.lce rd ra) :=
  Sys2Proof.firstCode_wordOf _
theorem Sys2Proof.Laws.RoundTrip.scb (rd : BitVec 5) (ra : BitVec 5) :
    Sys2Proof.Laws.RoundTrip.Statement (Sys2Proof.Instr.scb rd ra) :=
  Sys2Proof.firstCode_wordOf _
theorem Sys2Proof.Laws.RoundTrip.scw (rd : BitVec 5) (ra : BitVec 5) :
    Sys2Proof.Laws.RoundTrip.Statement (Sys2Proof.Instr.scw rd ra) :=
  Sys2Proof.firstCode_wordOf _
theorem Sys2Proof.Laws.RoundTrip.sce (ra : BitVec 5) :
    Sys2Proof.Laws.RoundTrip.Statement (Sys2Proof.Instr.sce ra) :=
  Sys2Proof.firstCode_wordOf _
theorem Sys2Proof.Laws.RoundTrip.alw (rd : BitVec 5) (ra : BitVec 5) :
    Sys2Proof.Laws.RoundTrip.Statement (Sys2Proof.Instr.alw rd ra) :=
  Sys2Proof.firstCode_wordOf _
theorem Sys2Proof.Laws.RoundTrip.asw (rd : BitVec 5) (ra : BitVec 5) :
    Sys2Proof.Laws.RoundTrip.Statement (Sys2Proof.Instr.asw rd ra) :=
  Sys2Proof.firstCode_wordOf _
theorem Sys2Proof.Laws.RoundTrip.mul (ra : BitVec 5) (rb : BitVec 5) :
    Sys2Proof.Laws.RoundTrip.Statement (Sys2Proof.Instr.mul ra rb) :=
  Sys2Proof.firstCode_wordOf _
theorem Sys2Proof.Laws.RoundTrip.mulu (ra : BitVec 5) (rb : BitVec 5) :
    Sys2Proof.Laws.RoundTrip.Statement (Sys2Proof.Instr.mulu ra rb) :=
  Sys2Proof.firstCode_wordOf _
theorem Sys2Proof.Laws.RoundTrip.div (ra : BitVec 5) (rb : BitVec 5) :
    Sys2Proof.Laws.RoundTrip.Statement (Sys2Proof.Instr.div ra rb) :=
  Sys2Proof.firstCode_wordOf _
theorem Sys2Proof.Laws.RoundTrip.divu (ra : BitVec 5) (rb : BitVec 5) :
    Sys2Proof.Laws.RoundTrip.Statement (Sys2Proof.Instr.divu ra rb) :=
  Sys2Proof.firstCode_wordOf _
theorem Sys2Proof.Laws.RoundTrip.mfcel (rd : BitVec 5) :
    Sys2Proof.Laws.RoundTrip.Statement (Sys2Proof.Instr.mfcel rd) :=
  Sys2Proof.firstCode_wordOf _
theorem Sys2Proof.Laws.RoundTrip.mfceh (rd : BitVec 5) :
    Sys2Proof.Laws.RoundTrip.Statement (Sys2Proof.Instr.mfceh rd) :=
  Sys2Proof.firstCode_wordOf _
theorem Sys2Proof.Laws.RoundTrip.mfcehl (rd : BitVec 5) (ra : BitVec 5) :
    Sys2Proof.Laws.RoundTrip.Statement (Sys2Proof.Instr.mfcehl rd ra) :=
  Sys2Proof.firstCode_wordOf _
theorem Sys2Proof.Laws.RoundTrip.mtcel (rd : BitVec 5) :
    Sys2Proof.Laws.RoundTrip.Statement (Sys2Proof.Instr.mtcel rd) :=
  Sys2Proof.firstCode_wordOf _
theorem Sys2Proof.Laws.RoundTrip.mtceh (rd : BitVec 5) :
    Sys2Proof.Laws.RoundTrip.Statement (Sys2Proof.Instr.mtceh rd) :=
  Sys2Proof.firstCode_wordOf _
theorem Sys2Proof.Laws.RoundTrip.mtcehl (rd : BitVec 5) (ra : BitVec 5) :
    Sys2Proof.Laws.RoundTrip.Statement (Sys2Proof.Instr.mtcehl rd ra) :=
  Sys2Proof.firstCode_wordOf _
theorem Sys2Proof.Laws.RoundTrip.syscall (spar : BitVec 15) :
    Sys2Proof.Laws.RoundTrip.Statement (Sys2Proof.Instr.syscall spar) :=
  Sys2Proof.firstCode_wordOf _
theorem Sys2Proof.Laws.RoundTrip.trapcond (swp : BitVec 5) (ec : Sys2Proof.Cond) :
    Sys2Proof.Laws.RoundTrip.Statement (Sys2Proof.Instr.trapcond swp ec) :=
  Sys2Proof.firstCode_wordOf _
theorem Sys2Proof.Laws.RoundTrip.sdbbp (code : BitVec 5) :
    Sys2Proof.Laws.RoundTrip.Statement (Sys2Proof.Instr.sdbbp code) :=
  Sys2Proof.firstCode_wordOf _
theorem Sys2Proof.Laws.RoundTrip.pflush :
    Sys2Proof.Laws.RoundTrip.Statement Sys2Proof.Instr.pflush :=
  Sys2Proof.firstCode_wordOf _
theorem Sys2Proof.Laws.RoundTrip.addi (rd : BitVec 5) (imm : BitVec 16) (cu : Bool) :
    Sys2Proof.Laws.RoundTrip.Statement (Sys2Proof.Instr.addi rd imm cu) :=
  Sys2Proof.firstCode_wordOf _
theorem Sys2Proof.Laws.RoundTrip.addis (rd : BitVec 5) (imm : BitVec 16) (cu : Bool) :
    Sys2Proof.Laws.RoundTrip.Statement (Sys2Proof.Instr.addis rd imm cu) :=
  Sys2Proof.firstCode_wordOf _
theorem Sys2Proof.Laws.RoundTrip.cmpi (rd : BitVec 5) (imm : BitVec 16) :
    Sys2Proof.Laws.RoundTrip.Statement (Sys2Proof.Instr.cmpi rd imm) :=
  Sys2Proof.firstCode_wordOf _
theorem Sys2Proof.Laws.RoundTrip.andi (rd : BitVec 5) (imm : BitVec 16) (cu : Bool) :
    Sys2Proof.Laws.RoundTrip.Statement (Sys2Proof.Instr.andi rd imm cu) :=
  Sys2Proof.firstCode_wordOf _
theorem Sys2Proof.Laws.RoundTrip.andis (rd : BitVec 5) (imm : BitVec 16) (cu : Bool) :
    Sys2Proof.Laws.RoundTrip.Statement (Sys2Proof.Instr.andis rd imm cu) :=
  Sys2Proof.firstCode_wordOf _
theorem Sys2Proof.Laws.RoundTrip.ori (rd : BitVec 5) (imm : BitVec 16) (cu : Bool) :
    Sys2Proof.Laws.RoundTrip.Statement (Sys2Proof.Instr.ori rd imm cu) :=
  Sys2Proof.firstCode_wordOf _
theorem Sys2Proof.Laws.RoundTrip.oris (rd : BitVec 5) (imm : BitVec 16) (cu : Bool) :
    Sys2Proof.Laws.RoundTrip.Statement (Sys2Proof.Instr.oris rd imm cu) :=
  Sys2Proof.firstCode_wordOf _
theorem Sys2Proof.Laws.RoundTrip.ldi (rd : BitVec 5) (imm : BitVec 16) :
    Sys2Proof.Laws.RoundTrip.Statement (Sys2Proof.Instr.ldi rd imm) :=
  Sys2Proof.firstCode_wordOf _
theorem Sys2Proof.Laws.RoundTrip.ldis (rd : BitVec 5) (imm : BitVec 16) :
    Sys2Proof.Laws.RoundTrip.Statement (Sys2Proof.Instr.ldis rd imm) :=
  Sys2Proof.firstCode_wordOf _
theorem Sys2Proof.Laws.RoundTrip.addri (rd : BitVec 5) (ra : BitVec 5) (imm : BitVec 14) (cu : Bool) :
    Sys2Proof.Laws.RoundTrip.Statement (Sys2Proof.Instr.addri rd ra imm cu) :=
  Sys2Proof.firstCode_wordOf _
theorem Sys2Proof.Laws.RoundTrip.andri (rd : BitVec 5) (ra : BitVec 5) (imm : BitVec 14) (cu : Bool) :
    Sys2Proof.Laws.RoundTrip.Statement (Sys2Proof.Instr.andri rd ra imm cu) :=
  Sys2Proof.firstCode_wordOf _
theorem Sys2Proof.Laws.RoundTrip.orri (rd : BitVec 5) (ra : BitVec 5) (imm : BitVec 14) (cu : Bool) :
    Sys2Proof.Laws.RoundTrip.Statement (Sys2Proof.Instr.orri rd ra imm cu) :=
  Sys2Proof.firstCode_wordOf _
theorem Sys2Proof.Laws.RoundTrip.j (disp : BitVec 24) :
    Sys2Proof.Laws.RoundTrip.Statement (Sys2Proof.Instr.j disp) :=
  Sys2Proof.firstCode_wordOf _
theorem Sys2Proof.Laws.RoundTrip.jl (disp : BitVec 24) :
    Sys2Proof.Laws.RoundTrip.Statement (Sys2Proof.Instr.jl disp) :=
  Sys2Proof.firstCode_wordOf _
theorem Sys2Proof.Laws.RoundTrip.bcond (bc : Sys2Proof.Cond) (disp : BitVec 19) :
    Sys2Proof.Laws.RoundTrip.Statement (Sys2Proof.Instr.bcond bc disp) :=
  Sys2Proof.firstCode_wordOf _
theorem Sys2Proof.Laws.RoundTrip.bcondl (bc : Sys2Proof.Cond) (disp : BitVec 19) :
    Sys2Proof.Laws.RoundTrip.Statement (Sys2Proof.Instr.bcondl bc disp) :=
  Sys2Proof.firstCode_wordOf _
theorem Sys2Proof.Laws.RoundTrip.lw (rd : BitVec 5) (ra : BitVec 5) (imm : BitVec 15) :
    Sys2Proof.Laws.RoundTrip.Statement (Sys2Proof.Instr.lw rd ra imm) :=
  Sys2Proof.firstCode_wordOf _
theorem Sys2Proof.Laws.RoundTrip.lwPre (rd : BitVec 5) (ra : BitVec 5) (imm : BitVec 12) :
    Sys2Proof.Laws.RoundTrip.Statement (Sys2Proof.Instr.lwPre rd ra imm) :=
  Sys2Proof.firstCode_wordOf _
theorem Sys2Proof.Laws.RoundTrip.lwPost (rd : BitVec 5) (ra : BitVec 5) (imm : BitVec 12) :
    Sys2Proof.Laws.RoundTrip.Statement (Sys2Proof.Instr.lwPost rd ra imm) :=
  Sys2Proof.firstCode_wordOf _
theorem Sys2Proof.Laws.RoundTrip.lh (rd : BitVec 5) (ra : BitVec 5) (imm : BitVec 15) :
    Sys2Proof.Laws.RoundTrip.Statement (Sys2Proof.Instr.lh rd ra imm) :=
  Sys2Proof.firstCode_wordOf _
theorem Sys2Proof.Laws.RoundTrip.lhPre (rd : BitVec 5) (ra : BitVec 5) (imm : BitVec 12) :
    Sys2Proof.Laws.RoundTrip.Statement (Sys2Proof.Instr.lhPre rd ra imm) :=
  Sys2Proof.firstCode_wordOf _
theorem Sys2Proof.Laws.RoundTrip.lhPost (rd : BitVec 5) (ra : BitVec 5) (imm : BitVec 12) :
    Sys2Proof.Laws.RoundTrip.Statement (Sys2Proof.Instr.lhPost rd ra imm) :=
  Sys2Proof.firstCode_wordOf _
theorem Sys2Proof.Laws.RoundTrip.lhu (rd : BitVec 5) (ra : BitVec 5) (imm : BitVec 15) :
    Sys2Proof.Laws.RoundTrip.Statement (Sys2Proof.Instr.lhu rd ra imm) :=
  Sys2Proof.firstCode_wordOf _
theorem Sys2Proof.Laws.RoundTrip.lhuPre (rd : BitVec 5) (ra : BitVec 5) (imm : BitVec 12) :
    Sys2Proof.Laws.RoundTrip.Statement (Sys2Proof.Instr.lhuPre rd ra imm) :=
  Sys2Proof.firstCode_wordOf _
theorem Sys2Proof.Laws.RoundTrip.lhuPost (rd : BitVec 5) (ra : BitVec 5) (imm : BitVec 12) :
    Sys2Proof.Laws.RoundTrip.Statement (Sys2Proof.Instr.lhuPost rd ra imm) :=
  Sys2Proof.firstCode_wordOf _
theorem Sys2Proof.Laws.RoundTrip.lb (rd : BitVec 5) (ra : BitVec 5) (imm : BitVec 15) :
    Sys2Proof.Laws.RoundTrip.Statement (Sys2Proof.Instr.lb rd ra imm) :=
  Sys2Proof.firstCode_wordOf _
theorem Sys2Proof.Laws.RoundTrip.lbPre (rd : BitVec 5) (ra : BitVec 5) (imm : BitVec 12) :
    Sys2Proof.Laws.RoundTrip.Statement (Sys2Proof.Instr.lbPre rd ra imm) :=
  Sys2Proof.firstCode_wordOf _
theorem Sys2Proof.Laws.RoundTrip.lbPost (rd : BitVec 5) (ra : BitVec 5) (imm : BitVec 12) :
    Sys2Proof.Laws.RoundTrip.Statement (Sys2Proof.Instr.lbPost rd ra imm) :=
  Sys2Proof.firstCode_wordOf _
theorem Sys2Proof.Laws.RoundTrip.lbu (rd : BitVec 5) (ra : BitVec 5) (imm : BitVec 15) :
    Sys2Proof.Laws.RoundTrip.Statement (Sys2Proof.Instr.lbu rd ra imm) :=
  Sys2Proof.firstCode_wordOf _
theorem Sys2Proof.Laws.RoundTrip.lbuPre (rd : BitVec 5) (ra : BitVec 5) (imm : BitVec 12) :
    Sys2Proof.Laws.RoundTrip.Statement (Sys2Proof.Instr.lbuPre rd ra imm) :=
  Sys2Proof.firstCode_wordOf _
theorem Sys2Proof.Laws.RoundTrip.lbuPost (rd : BitVec 5) (ra : BitVec 5) (imm : BitVec 12) :
    Sys2Proof.Laws.RoundTrip.Statement (Sys2Proof.Instr.lbuPost rd ra imm) :=
  Sys2Proof.firstCode_wordOf _
theorem Sys2Proof.Laws.RoundTrip.sw (rd : BitVec 5) (ra : BitVec 5) (imm : BitVec 15) :
    Sys2Proof.Laws.RoundTrip.Statement (Sys2Proof.Instr.sw rd ra imm) :=
  Sys2Proof.firstCode_wordOf _
theorem Sys2Proof.Laws.RoundTrip.swPre (rd : BitVec 5) (ra : BitVec 5) (imm : BitVec 12) :
    Sys2Proof.Laws.RoundTrip.Statement (Sys2Proof.Instr.swPre rd ra imm) :=
  Sys2Proof.firstCode_wordOf _
theorem Sys2Proof.Laws.RoundTrip.swPost (rd : BitVec 5) (ra : BitVec 5) (imm : BitVec 12) :
    Sys2Proof.Laws.RoundTrip.Statement (Sys2Proof.Instr.swPost rd ra imm) :=
  Sys2Proof.firstCode_wordOf _
theorem Sys2Proof.Laws.RoundTrip.sh (rd : BitVec 5) (ra : BitVec 5) (imm : BitVec 15) :
    Sys2Proof.Laws.RoundTrip.Statement (Sys2Proof.Instr.sh rd ra imm) :=
  Sys2Proof.firstCode_wordOf _
theorem Sys2Proof.Laws.RoundTrip.shPre (rd : BitVec 5) (ra : BitVec 5) (imm : BitVec 12) :
    Sys2Proof.Laws.RoundTrip.Statement (Sys2Proof.Instr.shPre rd ra imm) :=
  Sys2Proof.firstCode_wordOf _
theorem Sys2Proof.Laws.RoundTrip.shPost (rd : BitVec 5) (ra : BitVec 5) (imm : BitVec 12) :
    Sys2Proof.Laws.RoundTrip.Statement (Sys2Proof.Instr.shPost rd ra imm) :=
  Sys2Proof.firstCode_wordOf _
theorem Sys2Proof.Laws.RoundTrip.sb (rd : BitVec 5) (ra : BitVec 5) (imm : BitVec 15) :
    Sys2Proof.Laws.RoundTrip.Statement (Sys2Proof.Instr.sb rd ra imm) :=
  Sys2Proof.firstCode_wordOf _
theorem Sys2Proof.Laws.RoundTrip.sbPre (rd : BitVec 5) (ra : BitVec 5) (imm : BitVec 12) :
    Sys2Proof.Laws.RoundTrip.Statement (Sys2Proof.Instr.sbPre rd ra imm) :=
  Sys2Proof.firstCode_wordOf _
theorem Sys2Proof.Laws.RoundTrip.sbPost (rd : BitVec 5) (ra : BitVec 5) (imm : BitVec 12) :
    Sys2Proof.Laws.RoundTrip.Statement (Sys2Proof.Instr.sbPost rd ra imm) :=
  Sys2Proof.firstCode_wordOf _
theorem Sys2Proof.Laws.RoundTrip.cache (op : BitVec 5) (ra : BitVec 5) (imm : BitVec 15) :
    Sys2Proof.Laws.RoundTrip.Statement (Sys2Proof.Instr.cache op ra imm) :=
  Sys2Proof.firstCode_wordOf _
theorem Sys2Proof.Laws.RoundTrip.ceinst (usd1 : BitVec 5) (ra : BitVec 5) (rb : BitVec 5) (usd2 : BitVec 5) (func5 : BitVec 5) :
    Sys2Proof.Laws.RoundTrip.Statement (Sys2Proof.Instr.ceinst usd1 ra rb usd2 func5) :=
  Sys2Proof.firstCode_wordOf _
theorem Sys2Proof.Laws.RoundTrip.mtcr (rd : BitVec 5) (crn : BitVec 5) :
    Sys2Proof.Laws.RoundTrip.Statement (Sys2Proof.Instr.mtcr rd crn) :=
  Sys2Proof.firstCode_wordOf _
theorem Sys2Proof.Laws.RoundTrip.mfcr (rd : BitVec 5) (crn : BitVec 5) :
    Sys2Proof.Laws.RoundTrip.Statement (Sys2Proof.Instr.mfcr rd crn) :=
  Sys2Proof.firstCode_wordOf _
theorem Sys2Proof.Laws.RoundTrip.rte :
    Sys2Proof.Laws.RoundTrip.Statement Sys2Proof.Instr.rte :=
  Sys2Proof.firstCode_wordOf _
theorem Sys2Proof.Laws.RoundTrip.drte :
    Sys2Proof.Laws.RoundTrip.Statement Sys2Proof.Instr.drte :=
  Sys2Proof.firstCode_wordOf _
theorem Sys2Proof.Laws.RoundTrip.sleep :
    Sys2Proof.Laws.RoundTrip.Statement Sys2Proof.Instr.sleep :=
  Sys2Proof.firstCode_wordOf _
theorem Sys2Proof.Laws.RoundTrip.stlb :
    Sys2Proof.Laws.RoundTrip.Statement Sys2Proof.Instr.stlb :=
  Sys2Proof.firstCode_wordOf _
theorem Sys2Proof.Laws.RoundTrip.mftlb :
    Sys2Proof.Laws.RoundTrip.Statement Sys2Proof.Instr.mftlb :=
  Sys2Proof.firstCode_wordOf _
theorem Sys2Proof.Laws.RoundTrip.mtptlb :
    Sys2Proof.Laws.RoundTrip.Statement Sys2Proof.Instr.mtptlb :=
  Sys2Proof.firstCode_wordOf _
theorem Sys2Proof.Laws.RoundTrip.mtrtlb :
    Sys2Proof.Laws.RoundTrip.Statement Sys2Proof.Instr.mtrtlb :=
  Sys2Proof.firstCode_wordOf _
theorem Sys2Proof.Laws.RoundTrip.mtc1 (rd : BitVec 5) (cra : BitVec 5) :
    Sys2Proof.Laws.RoundTrip.Statement (Sys2Proof.Instr.mtc1 rd cra) :=
  Sys2Proof.firstCode_wordOf _
theorem Sys2Proof.Laws.RoundTrip.mfc1 (rd : BitVec 5) (cra : BitVec 5) :
    Sys2Proof.Laws.RoundTrip.Statement (Sys2Proof.Instr.mfc1 rd cra) :=
  Sys2Proof.firstCode_wordOf _
theorem Sys2Proof.Laws.RoundTrip.mtcc1 (rd : BitVec 5) (cra : BitVec 5) :
    Sys2Proof.Laws.RoundTrip.Statement (Sys2Proof.Instr.mtcc1 rd cra) :=
  Sys2Proof.firstCode_wordOf _
theorem Sys2Proof.Laws.RoundTrip.mfcc1 (rd : BitVec 5) (cra : BitVec 5) :
    Sys2Proof.Laws.RoundTrip.Statement (Sys2Proof.Instr.mfcc1 rd cra) :=
  Sys2Proof.firstCode_wordOf _
theorem Sys2Proof.Laws.RoundTrip.ldc1 (rd : BitVec 5) (cra : BitVec 5) (imm : BitVec 10) :
    Sys2Proof.Laws.RoundTrip.Statement (Sys2Proof.Instr.ldc1 rd cra imm) :=
  Sys2Proof.firstCode_wordOf _
theorem Sys2Proof.Laws.RoundTrip.stc1 (rd : BitVec 5) (cra : BitVec 5) (imm : BitVec 10) :
    Sys2Proof.Laws.RoundTrip.Statement (Sys2Proof.Instr.stc1 rd cra imm) :=
  Sys2Proof.firstCode_wordOf _
theorem Sys2Proof.Laws.RoundTrip.cop1 (crd : BitVec 5) (cra : BitVec 5) (crb : BitVec 5) (code : BitVec 5) :
    Sys2Proof.Laws.RoundTrip.Statement (Sys2Proof.Instr.cop1 crd cra crb code) :=
  Sys2Proof.firstCode_wordOf _
theorem Sys2Proof.Laws.RoundTrip.mtc2 (rd : BitVec 5) (cra : BitVec 5) :
    Sys2Proof.Laws.RoundTrip.Statement (Sys2Proof.Instr.mtc2 rd cra) :=
  Sys2Proof.firstCode_wordOf _
theorem Sys2Proof.Laws.RoundTrip.mfc2 (rd : BitVec 5) (cra : BitVec 5) :
    Sys2Proof.Laws.RoundTrip.Statement (Sys2Proof.Instr.mfc2 rd cra) :=
  Sys2Proof.firstCode_wordOf _
theorem Sys2Proof.Laws.RoundTrip.mtcc2 (rd : BitVec 5) (cra : BitVec 5) :
    Sys2Proof.Laws.RoundTrip.Statement (Sys2Proof.Instr.mtcc2 rd cra) :=
  Sys2Proof.firstCode_wordOf _
theorem Sys2Proof.Laws.RoundTrip.mfcc2 (rd : BitVec 5) (cra : BitVec 5) :
    Sys2Proof.Laws.RoundTrip.Statement (Sys2Proof.Instr.mfcc2 rd cra) :=
  Sys2Proof.firstCode_wordOf _
theorem Sys2Proof.Laws.RoundTrip.ldc2 (rd : BitVec 5) (cra : BitVec 5) (imm : BitVec 10) :
    Sys2Proof.Laws.RoundTrip.Statement (Sys2Proof.Instr.ldc2 rd cra imm) :=
  Sys2Proof.firstCode_wordOf _
theorem Sys2Proof.Laws.RoundTrip.stc2 (rd : BitVec 5) (cra : BitVec 5) (imm : BitVec 10) :
    Sys2Proof.Laws.RoundTrip.Statement (Sys2Proof.Instr.stc2 rd cra imm) :=
  Sys2Proof.firstCode_wordOf _
theorem Sys2Proof.Laws.RoundTrip.cop2 (crd : BitVec 5) (cra : BitVec 5) (crb : BitVec 5) (code : BitVec 5) :
    Sys2Proof.Laws.RoundTrip.Statement (Sys2Proof.Instr.cop2 crd cra crb code) :=
  Sys2Proof.firstCode_wordOf _
theorem Sys2Proof.Laws.RoundTrip.mtc3 (rd : BitVec 5) (cra : BitVec 5) :
    Sys2Proof.Laws.RoundTrip.Statement (Sys2Proof.Instr.mtc3 rd cra) :=
  Sys2Proof.firstCode_wordOf _
theorem Sys2Proof.Laws.RoundTrip.mfc3 (rd : BitVec 5) (cra : BitVec 5) :
    Sys2Proof.Laws.RoundTrip.Statement (Sys2Proof.Instr.mfc3 rd cra) :=
  Sys2Proof.firstCode_wordOf _
theorem Sys2Proof.Laws.RoundTrip.mtcc3 (rd : BitVec 5) (cra : BitVec 5) :
    Sys2Proof.Laws.RoundTrip.Statement (Sys2Proof.Instr.mtcc3 rd cra) :=
  Sys2Proof.firstCode_wordOf _
theorem Sys2Proof.Laws.RoundTrip.mfcc3 (rd : BitVec 5) (cra : BitVec 5) :
    Sys2Proof.Laws.RoundTrip.Statement (Sys2Proof.Instr.mfcc3 rd cra) :=
  Sys2Proof.firstCode_wordOf _
theorem Sys2Proof.Laws.RoundTrip.ldc3 (rd : BitVec 5) (cra : BitVec 5) (imm : BitVec 10) :
    Sys2Proof.Laws.RoundTrip.Statement (Sys2Proof.Instr.ldc3 rd cra imm) :=
  Sys2Proof.firstCode_wordOf _
theorem Sys2Proof.Laws.RoundTrip.stc3 (rd : BitVec 5) (cra : BitVec 5) (imm : BitVec 10) :
    Sys2Proof.Laws.RoundTrip.Statement (Sys2Proof.Instr.stc3 rd cra imm) :=
  Sys2Proof.firstCode_wordOf _
theorem Sys2Proof.Laws.RoundTrip.cop3 (crd : BitVec 5) (cra : BitVec 5) (crb : BitVec 5) (code : BitVec 5) :
    Sys2Proof.Laws.RoundTrip.Statement (Sys2Proof.Instr.cop3 crd cra crb code) :=
  Sys2Proof.firstCode_wordOf _
theorem Sys2Proof.Laws.RoundTrip.add16 (rd : BitVec 4) (ra : BitVec 4) :
    Sys2Proof.Laws.RoundTrip.Statement (Sys2Proof.Instr.add16 rd ra) :=
  Sys2Proof.firstCode_wordOf _
theorem Sys2Proof.Laws.RoundTrip.addc16 (rd : BitVec 4) (ra : BitVec 4) :
    Sys2Proof.Laws.RoundTrip.Statement (Sys2Proof.Instr.addc16 rd ra) :=
  Sys2Proof.firstCode_wordOf _
theorem Sys2Proof.Laws.RoundTrip.sub16 (rd : BitVec 4) (ra : BitVec 4) :
    Sys2Proof.Laws.RoundTrip.Statement (Sys2Proof.Instr.sub16 rd ra) :=
  Sys2Proof.firstCode_wordOf _
theorem Sys2Proof.Laws.RoundTrip.cmp16 (rd : BitVec 4) (ra : BitVec 4) :
    Sys2Proof.Laws.RoundTrip.Statement (Sys2Proof.Instr.cmp16 rd ra) :=
  Sys2Proof.firstCode_wordOf _
theorem Sys2Proof.Laws.RoundTrip.neg16 (rd : BitVec 4) (ra : BitVec 4) :
    Sys2Proof.Laws.RoundTrip.Statement (Sys2Proof.Instr.neg16 rd ra) :=
  Sys2Proof.firstCode_wordOf _
theorem Sys2Proof.Laws.RoundTrip.mv16 (rd : BitVec 4) (ra : BitVec 4) :
    Sys2Proof.Laws.RoundTrip.Statement (Sys2Proof.Instr.mv16 rd ra) :=
  Sys2Proof.firstCode_wordOf _
theorem Sys2Proof.Laws.RoundTrip.and16 (rd : BitVec 4) (ra : BitVec 4) :
    Sys2Proof.Laws.RoundTrip.Statement (Sys2Proof.Instr.and16 rd ra) :=
  Sys2Proof.firstCode_wordOf _
theorem Sys2Proof.Laws.RoundTrip.or16 (rd : BitVec 4) (ra : BitVec 4) :
    Sys2Proof.Laws.RoundTrip.Statement (Sys2Proof.Instr.or16 rd ra) :=
  Sys2Proof.firstCode_wordOf _
theorem Sys2Proof.Laws.RoundTrip.xor16 (rd : BitVec 4) (ra : BitVec 4) :
    Sys2Proof.Laws.RoundTrip.Statement (Sys2Proof.Instr.xor16 rd ra) :=
  Sys2Proof.firstCode_wordOf _
theorem Sys2Proof.Laws.RoundTrip.not16 (rd : BitVec 4) (ra : BitVec 4) :
    Sys2Proof.Laws.RoundTrip.Statement (Sys2Proof.Instr.not16 rd ra) :=
  Sys2Proof.firstCode_wordOf _
theorem Sys2Proof.Laws.RoundTrip.sll16 (rd : BitVec 4) (ra : BitVec 4) :
    Sys2Proof.Laws.RoundTrip.Statement (Sys2Proof.Instr.sll16 rd ra) :=
  Sys2Proof.firstCode_wordOf _
theorem Sys2Proof.Laws.RoundTrip.srl16 (rd : BitVec 4) (ra : BitVec 4) :
    Sys2Proof.Laws.RoundTrip.Statement (Sys2Proof.Instr.srl16 rd ra) :=
  Sys2Proof.firstCode_wordOf _
theorem Sys2Proof.Laws.RoundTrip.sra16 (rd : BitVec 4) (ra : BitVec 4) :
    Sys2Proof.Laws.RoundTrip.Statement (Sys2Proof.Instr.sra16 rd ra) :=
  Sys2Proof.firstCode_wordOf _
theorem Sys2Proof.Laws.RoundTrip.lw16 (rd : BitVec 4) (ra : BitVec 4) :
    Sys2Proof.Laws.RoundTrip.Statement (Sys2Proof.Instr.lw16 rd ra) :=
  Sys2Proof.firstCode_wordOf _
theorem Sys2Proof.Laws.RoundTrip.lh16 (rd : BitVec 4) (ra : BitVec 4) :
    Sys2Proof.Laws.RoundTrip.Statement (Sys2Proof.Instr.lh16 rd ra) :=
  Sys2Proof.firstCode_wordOf _
theorem Sys2Proof.Laws.RoundTrip.lbu16 (rd : BitVec 4) (ra : BitVec 4) :
    Sys2Proof.Laws.RoundTrip.Statement (Sys2Proof.Instr.lbu16 rd ra) :=
  Sys2Proof.firstCode_wordOf _
theorem Sys2Proof.Laws.RoundTrip.sw16 (rd : BitVec 4) (ra : BitVec 4) :
    Sys2Proof.Laws.RoundTrip.Statement (Sys2Proof.Instr.sw16 rd ra) :=
  Sys2Proof.firstCode_wordOf _
theorem Sys2Proof.Laws.RoundTrip.sh16 (rd : BitVec 4) (ra : BitVec 4) :
    Sys2Proof.Laws.RoundTrip.Statement (Sys2Proof.Instr.sh16 rd ra) :=
  Sys2Proof.firstCode_wordOf _
theorem Sys2Proof.Laws.RoundTrip.sb16 (rd : BitVec 4) (ra : BitVec 4) :
    Sys2Proof.Laws.RoundTrip.Statement (Sys2Proof.Instr.sb16 rd ra) :=
  Sys2Proof.firstCode_wordOf _
theorem Sys2Proof.Laws.RoundTrip.mhfl16 (rd : BitVec 4) (ra : BitVec 4) :
    Sys2Proof.Laws.RoundTrip.Statement (Sys2Proof.Instr.mhfl16 rd ra) :=
  Sys2Proof.firstCode_wordOf _
theorem Sys2Proof.Laws.RoundTrip.mlfh16 (rd : BitVec 4) (ra : BitVec 4) :
    Sys2Proof.Laws.RoundTrip.Statement (Sys2Proof.Instr.mlfh16 rd ra) :=
  Sys2Proof.firstCode_wordOf _
theorem Sys2Proof.Laws.RoundTrip.nop16 :
    Sys2Proof.Laws.RoundTrip.Statement Sys2Proof.Instr.nop16 :=
  Sys2Proof.firstCode_wordOf _
theorem Sys2Proof.Laws.RoundTrip.tcond16 (ec : Sys2Proof.Cond) :
    Sys2Proof.Laws.RoundTrip.Statement (Sys2Proof.Instr.tcond16 ec) :=
  Sys2Proof.firstCode_wordOf _
theorem Sys2Proof.Laws.RoundTrip.brcond16 (bc : Sys2Proof.Cond) (ra : BitVec 4) :
    Sys2Proof.Laws.RoundTrip.Statement (Sys2Proof.Instr.brcond16 bc ra) :=
  Sys2Proof.firstCode_wordOf _
theorem Sys2Proof.Laws.RoundTrip.brcondl16 (bc : Sys2Proof.Cond) (ra : BitVec 4) :
    Sys2Proof.Laws.RoundTrip.Statement (Sys2Proof.Instr.brcondl16 bc ra) :=
  Sys2Proof.firstCode_wordOf _
theorem Sys2Proof.Laws.RoundTrip.push16 (rd : BitVec 5) (ra : BitVec 3) :
    Sys2Proof.Laws.RoundTrip.Statement (Sys2Proof.Instr.push16 rd ra) :=
  Sys2Proof.firstCode_wordOf _
theorem Sys2Proof.Laws.RoundTrip.pop16 (rd : BitVec 5) (ra : BitVec 3) :
    Sys2Proof.Laws.RoundTrip.Statement (Sys2Proof.Instr.pop16 rd ra) :=
  Sys2Proof.firstCode_wordOf _
theorem Sys2Proof.Laws.RoundTrip.addei16 (rd : BitVec 4) (exp : BitVec 4) :
    Sys2Proof.Laws.RoundTrip.Statement (Sys2Proof.Instr.addei16 rd exp) :=
  Sys2Proof.firstCode_wordOf _
theorem Sys2Proof.Laws.RoundTrip.subei16 (rd : BitVec 4) (exp : BitVec 4) :
    Sys2Proof.Laws.RoundTrip.Statement (Sys2Proof.Instr.subei16 rd exp) :=
  Sys2Proof.firstCode_wordOf _
theorem Sys2Proof.Laws.RoundTrip.bitclr16 (rd : BitVec 4) (bn : BitVec 5) :
    Sys2Proof.Laws.RoundTrip.Statement (Sys2Proof.Instr.bitclr16 rd bn) :=
  Sys2Proof.firstCode_wordOf _
theorem Sys2Proof.Laws.RoundTrip.bitset16 (rd : BitVec 4) (bn : BitVec 5) :
    Sys2Proof.Laws.RoundTrip.Statement (Sys2Proof.Instr.bitset16 rd bn) :=
  Sys2Proof.firstCode_wordOf _
theorem Sys2Proof.Laws.RoundTrip.bittgl16 (rd : BitVec 4) (bn : BitVec 5) :
    Sys2Proof.Laws.RoundTrip.Statement (Sys2Proof.Instr.bittgl16 rd bn) :=
  Sys2Proof.firstCode_wordOf _
theorem Sys2Proof.Laws.RoundTrip.bittst16 (rd : BitVec 4) (bn : BitVec 5) :
    Sys2Proof.Laws.RoundTrip.Statement (Sys2Proof.Instr.bittst16 rd bn) :=
  Sys2Proof.firstCode_wordOf _
theorem Sys2Proof.Laws.RoundTrip.slli16 (rd : BitVec 4) (sa : BitVec 5) :
    Sys2Proof.Laws.RoundTrip.Statement (Sys2Proof.Instr.slli16 rd sa) :=
  Sys2Proof.firstCode_wordOf _
theorem Sys2Proof.Laws.RoundTrip.srli16 (rd : BitVec 4) (sa : BitVec 5) :
    Sys2Proof.Laws.RoundTrip.Statement (Sys2Proof.Instr.srli16 rd sa) :=
  Sys2Proof.firstCode_wordOf _
theorem Sys2Proof.Laws.RoundTrip.lwp16 (rd : BitVec 4) (imm : BitVec 5) :
    Sys2Proof.Laws.RoundTrip.Statement (Sys2Proof.Instr.lwp16 rd imm) :=
  Sys2Proof.firstCode_wordOf _
theorem Sys2Proof.Laws.RoundTrip.lhp16 (rd : BitVec 4) (imm : BitVec 5) :
    Sys2Proof.Laws.RoundTrip.Statement (Sys2Proof.Instr.lhp16 rd imm) :=
  Sys2Proof.firstCode_wordOf _
theorem Sys2Proof.Laws.RoundTrip.lbup16 (rd : BitVec 4) (imm : BitVec 5) :
    Sys2Proof.Laws.RoundTrip.Statement (Sys2Proof.Instr.lbup16 rd imm) :=
  Sys2Proof.firstCode_wordOf _
theorem Sys2Proof.Laws.RoundTrip.swp16 (rd : BitVec 4) (imm : BitVec 5) :
    Sys2Proof.Laws.RoundTrip.Statement (Sys2Proof.Instr.swp16 rd imm) :=
  Sys2Proof.firstCode_wordOf _
theorem Sys2Proof.Laws.RoundTrip.shp16 (rd : BitVec 4) (imm : BitVec 5) :
    Sys2Proof.Laws.RoundTrip.Statement (Sys2Proof.Instr.shp16 rd imm) :=
  Sys2Proof.firstCode_wordOf _
theorem Sys2Proof.Laws.RoundTrip.sbp16 (rd : BitVec 4) (imm : BitVec 5) :
    Sys2Proof.Laws.RoundTrip.Statement (Sys2Proof.Instr.sbp16 rd imm) :=
  Sys2Proof.firstCode_wordOf _
theorem Sys2Proof.Laws.RoundTrip.sdbbp16 (code : BitVec 5) :
    Sys2Proof.Laws.RoundTrip.Statement (Sys2Proof.Instr.sdbbp16 code) :=
  Sys2Proof.firstCode_wordOf _
theorem Sys2Proof.Laws.RoundTrip.ldiu16 (rd : BitVec 4) (imm : BitVec 8) :
    Sys2Proof.Laws.RoundTrip.Statement (Sys2Proof.Instr.ldiu16 rd imm) :=
  Sys2Proof.firstCode_wordOf _
theorem Sys2Proof.Laws.RoundTrip.j16 (disp : BitVec 11) :
    Sys2Proof.Laws.RoundTrip.Statement (Sys2Proof.Instr.j16 disp) :=
  Sys2Proof.firstCode_wordOf _
theorem Sys2Proof.Laws.RoundTrip.jl16 (disp : BitVec 11) :
    Sys2Proof.Laws.RoundTrip.Statement (Sys2Proof.Instr.jl16 disp) :=
  Sys2Proof.firstCode_wordOf _
theorem Sys2Proof.Laws.RoundTrip.bcond16 (bc : Sys2Proof.Cond) (disp : BitVec 8) :
    Sys2Proof.Laws.RoundTrip.Statement (Sys2Proof.Instr.bcond16 bc disp) :=
  Sys2Proof.firstCode_wordOf _
end

