-- ==== Sys2Proof/Laws/Step.lean ====
section
/-!
SUPPORT. What a whole step does, said once: the start of a step changes nothing a fetch looks at, and how a step that comes to
its fetch goes on.
-/
namespace Sys2Proof.Machine

/-! ## The start of a step -/

theorem State.forbidden_beginStep (s : State) (a : Word) : s.beginStep.forbidden a = s.forbidden a := rfl

theorem State.busError_beginStep (s : State) (k : Access) (a : Word) : s.beginStep.busError k a = s.busError k a := rfl

theorem State.drsegRead_beginStep (s : State) (n : Nat) : s.beginStep.drsegRead n = s.drsegRead n := by
  simp only [State.drsegRead, State.beginStep]

theorem State.debugSegmentStop_beginStep (s : State) (a : Word) (n : Nat) :
    s.beginStep.debugSegmentStop a n = s.debugSegmentStop a n := by
  simp only [State.debugSegmentStop, State.drsegRead_beginStep]
  rfl

theorem State.fetchStop_beginStep (s : State) (a : Word) : s.beginStep.fetchStop a = s.fetchStop a := by
  simp only [State.fetchStop, State.debugSegmentStop_beginStep]

theorem State.checkFetch_beginStep (s : State) : s.beginStep.checkFetch = s.checkFetch := by
  simp only [State.checkFetch, State.forbidden_beginStep, State.busError_beginStep, State.fetchStop_beginStep]
  rfl

theorem State.fetchByte_beginStep (s : State) (a : Word) : s.beginStep.fetchByte a = s.fetchByte a := by
  simp only [State.fetchByte, State.readByte, State.cacheable, State.dGeometry, State.iGeometry, State.beginStep]
  rfl

theorem State.drsegWord_beginStep (s : State) (a : Word) : s.beginStep.drsegWord a = s.drsegWord a := by
  simp only [State.drsegWord, State.drsegRead_beginStep]

theorem State.fetchWord_beginStep (s : State) (a : Word) : s.beginStep.fetchWord a = s.fetchWord a := by
  simp only [State.fetchWord, State.fetchByte_beginStep, State.drsegWord_beginStep]
  rfl

theorem State.pcWord_beginStep (s : State) : s.beginStep.pcWord = s.pcWord := State.fetchWord_beginStep s _

theorem State.selected_beginStep (s : State) : s.beginStep.selected = selectCode s.pcWord s.pc s.flags.t := by
  simp only [State.selected, State.pcWord_beginStep]
  rfl

theorem State.breakPc_beginStep (s : State) : s.beginStep.breakPc = s.breakPc := by
  simp only [State.breakPc, State.checkFetch_beginStep, State.selected_beginStep]
  rfl

theorem State.dibHit_beginStep (s : State) : s.beginStep.dibHit = s.dibHit := by
  simp only [State.dibHit, State.breakPc_beginStep]
  simp only [State.beginStep]

theorem State.swiAccepted_beginStep (s : State) : s.beginStep.swiAccepted = s.swiAccepted := rfl

theorem State.interruptAccepted_beginStep (s : State) : s.beginStep.interruptAccepted = s.interruptAccepted := rfl

/-! ## The conditions of the spec -/

/-- The test of the boundary is the spec's: a level above IM[7:2] (60_exceptions.md R672). -/
theorem State.interruptAccepted_iff (s : State) :
    s.interruptAccepted = true ↔ s.psr.iec = true ∧ s.psr.im.toNat / 4 < s.pins.irq.toNat := by
  have h : (s.psr.im.extractLsb' 2 6).toNat = s.psr.im.toNat / 4 := by
    simp only [BitVec.extractLsb'_toNat, Nat.shiftRight_eq_div_pow]
    have := s.psr.im.isLt
    omega
  simp [State.interruptAccepted, h, -BitVec.extractLsb'_toNat]

/-- The test after an instruction is the spec's (60_exceptions.md R674). -/
theorem State.swiAccepted_iff (s : State) : s.swiAccepted = true ↔ SwiRequested s := by
  constructor
  · intro h
    simp only [State.swiAccepted, Bool.and_eq_true, Bool.or_eq_true, Bool.not_eq_true'] at h
    obtain ⟨h0, h | h⟩ := h
    · exact ⟨h0, 0, by omega, h.1, h.2⟩
    · exact ⟨h0, 1, by omega, h.1, h.2⟩
  · rintro ⟨h0, k, hk, h1, h2⟩
    have : k = 0 ∨ k = 1 := by omega
    rcases this with rfl | rfl <;> simp_all [State.swiAccepted]

/-- The instruction breakpoints match as the spec says (60_exceptions.md R709). -/
theorem State.dibHit_iff (s : State) : s.dibHit = true ↔ InstrBreakAt s s.breakPc := by
  simp [State.dibHit, InstrBreakAt, InstrBreak.hits, maskedEq, and_assoc]

/-! ## The end of a step -/

/-- The end of a step keeps the invariant. -/
theorem State.wf_endStep {s t : State} (h : t.Wf = true) : (s.endStep t).Wf = true :=
  State.wf_congr (s := t.drainSome) rfl rfl rfl rfl rfl rfl (State.wf_drainSome h)

/-- With an empty write buffer nothing leaves it at the end of a step. -/
theorem State.endStep_of_nil {s t : State} (h : t.wbuf = []) : s.endStep t =
    { t with
      stepped := !s.dreg.dm && s.dreg.ssEn && !t.dreg.dm
      inputs := t.inputs.tail
      raised := false
      pce := false } := by
  rw [State.endStep, State.drainSome_of_nil h]

/-! ## How a step goes on -/

/-- Taking an exception marks the step. -/
theorem takeException_raised (x : Exc) (w : Width) (s : State) : (takeException x w s).raised = true := by
  unfold takeException
  split <;> rfl

/-- An instruction that took an exception is committed as it is. -/
theorem commit_raise (x : Exc) (w v : Width) (s t : State) :
    commit v s (raise x w t) = .next (s.endStep (takeException x w t)) := by
  simp [commit, raise, afterInstr, takeException_raised]

/-- A step that comes to its fetch. -/
theorem step_fetches {s : State} (h : Fetches s) : step s = runFetched s.beginStep s.beginStep.fetch := by
  obtain ⟨h1, h2, h3⟩ := h
  have h2' : s.beginStep.sleeping = false := h2
  simp [step, h1, runStep, h2', h3]

/-- A step that comes to an instruction commits it. -/
theorem step_runs {s : State} {c : Code} {pc : Word} {pce : Bool} (h : Fetches s) (hc : s.checkFetch = .ok)
    (hs : selectCode s.pcWord s.pc s.flags.t = .run c pc pce) :
    step s = commit c.width s.beginStep (runCode c (s.beginStep.enterCode pc pce)) := by
  rw [step_fetches h]
  simp only [State.fetch, State.checkFetch_beginStep, State.selected_beginStep, hc, hs, runFetched]

end Sys2Proof.Machine
end

