-- ==== Sys2Proof/Tests/Slice0.lean ====
section
/-!
SUPPORT. Tests: what WellFormed refuses; words written out from the spec's encodings and examples, decoded and run on a small
state, with the result the spec's rule or example gives; whole steps; and for each statement with hypotheses a concrete state
that meets them all.
-/
set_option linter.style.longLine false
set_option linter.unusedVariables false
set_option maxRecDepth 20000
namespace Sys2Proof.Tests
open Sys2Proof Sys2Proof.Machine

/-! ## Helpers -/

/-- The state after reset with some registers set. -/
def regs (l : List (BitVec 5 × Word)) : State := l.foldl (fun s p => s.setR p.1 p.2) State.reset

/-- Bytes placed in memory at rising addresses. -/
def withBytes (a : Nat) (vs : List Byte) (s : State) : State := { s with mem := s.mem.setAll a vs }

/-- What an instruction leaves, if it answers a next state. -/
def ranInstr {α : Type} (i : Instr) (s : State) (f : State → α) : Option α :=
  match exec i s with
  | .next t => some (f t)
  | _ => none

/-- What the 32-bit instruction of a word leaves. -/
def ran {α : Type} (w : Word) (s : State) (f : State → α) : Option α := (wordInstr w).bind fun i => ranInstr i s f

/-- What a 16-bit instruction leaves. -/
def ran16 {α : Type} (h : BitVec 16) (s : State) (f : State → α) : Option α := ran (h ++ 0#16) s f

/-- What a step leaves, if it answers a next state. -/
def stepped {α : Type} (s : State) (f : State → α) : Option α :=
  match step s with
  | .next t => some (f t)
  | _ => none

/-- Coprocessors 1 to 3 present and usable. -/
def copState : State :=
  { State.reset with psr := { State.reset.psr with cu := 7 }, cfg := { Config.default with copPresent := 7 } }

/-- User mode at 0x1000 with interrupts on and N, C set: the worked entry of 45_system.md. -/
def syscallState : State := { State.reset with pc := 0x1000, psr := psrOfWord 3, cond := condOfWord 0xA }

/-- Cacheable memory below 0x10000, a clean line of zeros at 0x100 in the D-cache, r4 = 0x100, r8 = 7. -/
def cacheState : State :=
  { regs [(4, 0x100), (8, 7)] with
    pc := 0x200
    cfg := { Config.default with cacheable := [⟨0, 0x10000⟩] }
    dcache := ⟨[⟨0x100, false, false, false, List.replicate 16 0⟩], []⟩ }

/-- Debug mode, r2 at an address of the debug segment. -/
def debugReg (a : Word) : State := { regs [(2, a)] with dreg := { State.reset.dreg with dm := true } }

/-- An instruction breakpoint at the reset vector. -/
def breakState : State := { State.reset with ibrk := [{ InstrBreak.reset with addr := 0x9F000000, be := true }] }

/-! ## WellFormed: one ill-formed term for each check -/

theorem test_illformed_mv_cnz : wellFormed (.mvcond 4 2 .cnz) = false := by decide
theorem test_illformed_mfsr : wellFormed (.mfsr 4 3) = false := by decide
theorem test_illformed_mtsr : wellFormed (.mtsr 4 31) = false := by decide
theorem test_illformed_mfcr : wellFormed (.mfcr 4 7) = false := by decide
theorem test_illformed_mtcr : wellFormed (.mtcr 4 17) = false := by decide
theorem test_illformed_cache : wellFormed (.cache 5 0 0) = false := by decide

/-! ## Words by the encoding formulas of 44_ce_cop.md and 45_system.md, for the constructors no test below runs -/

theorem test_decode_words :
    ∀ p ∈ [
      (0x98888008#32, Instr.mtc1 4 8),
      (0x98888009#32, Instr.mfc1 4 8),
      (0x9888800E#32, Instr.mtcc1 4 8),
      (0x9888800F#32, Instr.mfcc1 4 8),
      (0x9888824A#32, Instr.ldc1 4 8 0x12),
      (0x9888824B#32, Instr.stc1 4 8 0x12),
      (0x98A4CFEC#32, Instr.cop1 5 4 19 31),
      (0x98888010#32, Instr.mtc2 4 8),
      (0x98888011#32, Instr.mfc2 4 8),
      (0x98888016#32, Instr.mtcc2 4 8),
      (0x98888017#32, Instr.mfcc2 4 8),
      (0x98888252#32, Instr.ldc2 4 8 0x12),
      (0x98888253#32, Instr.stc2 4 8 0x12),
      (0x98A4CFF4#32, Instr.cop2 5 4 19 31),
      (0x98888018#32, Instr.mtc3 4 8),
      (0x98888019#32, Instr.mfc3 4 8),
      (0x9888801E#32, Instr.mtcc3 4 8),
      (0x9888801F#32, Instr.mfcc3 4 8),
      (0x9888825A#32, Instr.ldc3 4 8 0x12),
      (0x9888825B#32, Instr.stc3 4 8 0x12),
      (0x98A4CFFC#32, Instr.cop3 5 4 19 31),
      (0x98008004#32, Instr.stlb),
      (0x98008024#32, Instr.mftlb),
      (0x98008044#32, Instr.mtptlb),
      (0x98008064#32, Instr.mtrtlb),
      (0xF0229066#32, Instr.ceinst 1 2 4 3 6),
      (0xE3E2FFFF#32, Instr.cache 0x1F 2 0x7FFF)],
      wordInstr p.1 = some p.2 := by decide

/-! ## Single instructions: the spec's words with the spec's results -/

/-- R230 -/
theorem test_add : ran 0x80838811#32 (regs [(3, 0x7FFFFFFF), (2, 1)]) (fun t => (t.r 4, t.flags)) = some (0x80000000, ⟨false, true, false, false, true⟩) := by decide
/-- R231 -/
theorem test_addc : ran 0x80838813#32 ((regs [(3, 0xFFFFFFFF), (2, 0)]).setFlags ⟨false, false, false, true, false⟩) (fun t => (t.r 4, t.flags)) = some (0, ⟨false, false, true, true, false⟩) := by decide
/-- R232 -/
theorem test_addi : ran 0x8480A468#32 (regs [(4, 1)]) (fun t => (t.r 4, t.flags)) = some (0x1235, Flags.zero) := by decide
/-- R233 -/
theorem test_addis : ran 0x94828468#32 (regs [(4, 1)]) (fun t => (t.r 4, t.flags)) = some (0x82340001, Flags.zero) := by decide
/-- R234 -/
theorem test_addri : ran 0xA0838246#32 (regs [(3, 0x1000)]) (fun t => (t.r 4, t.flags)) = some (0x1123, Flags.zero) := by decide
/-- R235 -/
theorem test_sub : ran 0x80828C15#32 (regs [(2, 0x80000000), (3, 1)]) (fun t => (t.r 4, t.flags)) = some (0x7FFFFFFF, ⟨false, false, false, true, true⟩) := by decide
/-- R236 -/
theorem test_subc : ran 0x80828C17#32 (regs [(2, 5), (3, 4)]) (fun t => (t.r 4, t.flags)) = some (0, ⟨false, false, true, true, false⟩) := by decide
/-- R237 -/
theorem test_neg : ran 0x80808C1F#32 (regs [(3, 0x80000000)]) (fun t => (t.r 4, t.flags)) = some (0x80000000, ⟨false, true, false, false, true⟩) := by decide
/-- R238, cmptmi.c -/
theorem test_cmp : ran 0x80259C19#32 (regs [(5, 3), (7, 5)]) (fun t => t.flags) = some ⟨true, true, false, false, false⟩ := by decide
/-- R239, cmpzteq.c -/
theorem test_cmpz : ran 0x8019801B#32 (regs [(25, 0)]) (fun t => t.flags) = some ⟨true, false, true, true, false⟩ := by decide
/-- R240 -/
theorem test_cmpi : ran 0x848AD79B#32 (regs [(4, 0xFFFFABCD)]) (fun t => t.flags) = some ⟨false, false, true, true, false⟩ := by decide
/-- R245 -/
theorem test_and : ran 0x80838820#32 (regs [(3, 0xF0F000FF), (2, 0x0FF00F0F)]) (fun t => (t.r 4, t.flags)) = some (0x00F0000F, Flags.zero) := by decide
/-- R246 -/
theorem test_andi : ran 0x8490A468#32 (regs [(4, 0xFFFFFFFF)]) (fun t => t.r 4) = some 0x1234 := by decide
/-- R247 -/
theorem test_andis : ran 0x9492D79A#32 (regs [(4, 0xFFFFFFFF)]) (fun t => t.r 4) = some 0xABCD0000 := by decide
/-- R248 -/
theorem test_andri : ran 0xB0828246#32 (regs [(2, 0xFFFFFFFF)]) (fun t => t.r 4) = some 0x123 := by decide
/-- R249 -/
theorem test_or : ran 0x80828C23#32 (regs [(2, 0xF0000000), (3, 0xF)]) (fun t => (t.r 4, t.flags)) = some (0xF000000F, ⟨false, true, false, false, false⟩) := by decide
/-- R250 -/
theorem test_ori : ran 0x8494A468#32 (regs [(4, 0xABCD0000)]) (fun t => t.r 4) = some 0xABCD1234 := by decide
/-- R251 -/
theorem test_oris : ran 0x9496D79A#32 (regs [(4, 0x1234)]) (fun t => t.r 4) = some 0xABCD1234 := by decide
/-- R252 -/
theorem test_orri : ran 0xB4828246#32 (regs [(2, 0x80000000)]) (fun t => t.r 4) = some 0x80000123 := by decide
/-- R253, R223 -/
theorem test_xor : ran 0x80828C27#32 ((regs [(2, 7), (3, 7)]).setFlags ⟨false, false, false, true, true⟩) (fun t => (t.r 4, t.flags)) = some (0, ⟨false, false, true, true, true⟩) := by decide
/-- R254 -/
theorem test_not : ran 0x80828024#32 (regs [(2, 0x0000FFFF)]) (fun t => t.r 4) = some 0xFFFF0000 := by decide
/-- R263 -/
theorem test_bitclr : ran 0x8082A829#32 (regs [(2, 0x400)]) (fun t => (t.r 4, t.flags)) = some (0, Flags.zero) := by decide
/-- R264 -/
theorem test_bitset : ran 0x8082A82B#32 (regs [(2, 0)]) (fun t => (t.r 4, t.flags)) = some (0x400, ⟨false, false, true, false, false⟩) := by decide
/-- R265 -/
theorem test_bittgl : ran 0x8082A82F#32 (regs [(2, 0x400)]) (fun t => (t.r 4, t.flags)) = some (0, Flags.zero) := by decide
/-- R266 -/
theorem test_bittst : ran 0x8002A82D#32 (regs [(2, 0x80000400)]) (fun t => t.flags) = some ⟨false, true, false, false, false⟩ := by decide
/-- R270 -/
theorem test_ldi : ran 0x849AD79A#32 State.reset (fun t => t.r 4) = some 0xFFFFABCD := by decide
/-- R271 -/
theorem test_ldis : ran 0x949AD79A#32 State.reset (fun t => t.r 4) = some 0xABCD0000 := by decide
/-- R272 -/
theorem test_nop : ran 0x80008000#32 State.reset (fun t => decide (t = State.reset.jump 0x9F000004)) = some true := by decide
/-- R282 -/
theorem test_sll : ran 0x80828C31#32 (regs [(2, 0x80000001), (3, 0x21)]) (fun t => (t.r 4, t.flags)) = some (2, ⟨false, false, false, true, false⟩) := by decide
/-- R283 -/
theorem test_slli : ran 0x80828C71#32 (regs [(2, 0x30000001)]) (fun t => (t.r 4, t.flags)) = some (0x80000008, ⟨false, true, false, true, false⟩) := by decide
/-- R284 -/
theorem test_srl : ran 0x80828C35#32 (regs [(2, 0x80000003), (3, 1)]) (fun t => (t.r 4, t.flags)) = some (0x40000001, ⟨false, false, false, true, false⟩) := by decide
/-- R285 -/
theorem test_srli : ran 0x8082B875#32 (regs [(2, 0xFFFF2000)]) (fun t => (t.r 4, t.flags)) = some (0x0003FFFC, ⟨false, false, false, true, false⟩) := by decide
/-- R286 -/
theorem test_sra : ran 0x80828C37#32 (regs [(2, 0x80000002), (3, 1)]) (fun t => (t.r 4, t.flags)) = some (0xC0000001, ⟨false, true, false, false, false⟩) := by decide
/-- R287 -/
theorem test_srai : ran 0x8082B876#32 (regs [(2, 0x80000000)]) (fun t => t.r 4) = some 0xFFFE0000 := by decide
/-- R291 -/
theorem test_rol : ran 0x80828C3D#32 (regs [(2, 0x80000001), (3, 14)]) (fun t => (t.r 4, t.flags)) = some (0x6000, Flags.zero) := by decide
/-- R292 -/
theorem test_roli : ran 0x8082B87C#32 (regs [(2, 0x80000001)]) (fun t => t.r 4) = some 0x6000 := by decide
/-- R293 -/
theorem test_ror : ran 0x80829839#32 (regs [(2, 0x80000001), (6, 14)]) (fun t => (t.r 4, t.flags)) = some (0x00060000, Flags.zero) := by decide
/-- R294 -/
theorem test_rori : ran 0x8082B879#32 (regs [(2, 0x2001)]) (fun t => (t.r 4, t.flags)) = some (0x80040000, ⟨false, true, false, true, false⟩) := by decide
/-- R295 -/
theorem test_rolc : ran 0x8082943F#32 (regs [(2, 0x80000001), (5, 14)]) (fun t => (t.r 4, t.flags)) = some (0x5000, Flags.zero) := by decide
/-- R296 -/
theorem test_rolic : ran 0x8082B87F#32 (regs [(2, 0x80000001)]) (fun t => (t.r 4, t.flags)) = some (0x5000, Flags.zero) := by decide
/-- R297 -/
theorem test_rorc : ran 0x8082903B#32 ((regs [(2, 0x80000001), (4, 14)]).setFlags ⟨false, false, false, true, false⟩) (fun t => (t.r 4, t.flags)) = some (0x000E0000, Flags.zero) := by decide
/-- R298 -/
theorem test_roric : ran 0x8082B87B#32 ((regs [(2, 0x80000001)]).setFlags ⟨false, false, false, true, false⟩) (fun t => (t.r 4, t.flags)) = some (0x000E0000, Flags.zero) := by decide
/-- R290, R291 -/
theorem test_rotate_by_zero_keeps_carry : ran 0x80828C3D#32 ((regs [(2, 0x80000001), (3, 32)]).setFlags ⟨false, false, true, true, false⟩) (fun t => (t.r 4, t.flags)) = some (0x80000001, ⟨false, true, true, true, false⟩) := by decide
/-- R301 -/
theorem test_extsb : ran 0x80828059#32 (regs [(2, 0x12345680)]) (fun t => (t.r 4, t.flags)) = some (0xFFFFFF80, ⟨false, true, false, false, false⟩) := by decide
/-- R302 -/
theorem test_extsh : ran 0x8082805A#32 (regs [(2, 0x12348000)]) (fun t => t.r 4) = some 0xFFFF8000 := by decide
/-- R303 -/
theorem test_extzb : ran 0x8082805C#32 (regs [(2, 0x12345680)]) (fun t => t.r 4) = some 0x80 := by decide
/-- R304 -/
theorem test_extzh : ran 0x8082805E#32 (regs [(2, 0x12348000)]) (fun t => t.r 4) = some 0x8000 := by decide
/-- R310 -/
theorem test_mveq_taken : ran 0x80829056#32 ((regs [(2, 7), (4, 9)]).setFlags ⟨false, false, true, false, false⟩) (fun t => t.r 4) = some 7 := by decide
/-- R310 -/
theorem test_mveq_not_taken : ran 0x80829056#32 (regs [(2, 7), (4, 9)]) (fun t => t.r 4) = some 9 := by decide
/-- R315 -/
theorem test_mfsr : ran 0x80808850#32 { State.reset with scr := 0x1234 } (fun t => t.r 4) = some 0x1234 := by decide
/-- R316 -/
theorem test_mtsr : ran 0x80028452#32 (regs [(2, 0x1234)]) (fun t => (t.cnt, t.lcr, t.scr)) = some (0, 0x1234, 0) := by decide
/-- R320 -/
theorem test_tvs : ran 0x8000B054#32 ((regs []).setFlags ⟨false, false, false, false, true⟩) (fun t => t.flags) = some ⟨true, false, false, false, true⟩ := by decide
/-- R335 -/
theorem test_j : ran 0x88009000#32 ((State.reset).jump 0x06000100) (fun t => t.pc) = some 0x06001000 := by decide
/-- R336 -/
theorem test_jl : ran 0x88009001#32 ((State.reset).jump 0x100) (fun t => (t.r 3, t.pc)) = some (0x104, 0x1000) := by decide
/-- R340 -/
theorem test_beq_taken : ran 0x90009010#32 (((regs []).setFlags ⟨false, false, true, false, false⟩).jump 0x100) (fun t => t.pc) = some 0x110 := by decide
/-- R332, R340 -/
theorem test_bcnz_back : ran 0x93FFBBF8#32 (({ State.reset with cnt := 2 }).jump 0x100) (fun t => (t.pc, t.cnt)) = some (0xF8, 1) := by decide
/-- R341 -/
theorem test_bcsl_taken : ran 0x90008101#32 (((regs []).setFlags ⟨false, false, false, true, false⟩).jump 0x200) (fun t => (t.r 3, t.pc)) = some (0x204, 0x300) := by decide
/-- R341 -/
theorem test_bcsl_not_taken : ran 0x90008101#32 ((State.reset).jump 0x200) (fun t => (t.r 3, t.pc)) = some (0, 0x204) := by decide
/-- R345 -/
theorem test_breq : ran 0x80039008#32 ((regs [(3, 0x204)]).setFlags ⟨false, false, true, false, false⟩) (fun t => t.pc) = some 0x204 := by decide
/-- R346 -/
theorem test_breql : ran 0x80039009#32 (((regs [(3, 0x800)]).setFlags ⟨false, false, true, false, false⟩).jump 0x400) (fun t => (t.r 3, t.pc)) = some (0x404, 0x800) := by decide
/-- R364 -/
theorem test_lw : ran 0xC0828123#32 (regs [(2, 0x1001)] |> withBytes 0x1124 [0x80, 0x91, 0xA2, 0xB3]) (fun t => (t.r 4, t.r 2)) = some (0x8091A2B3, 0x1001) := by decide
/-- R365 -/
theorem test_lwPre : ran 0x8C828918#32 (regs [(2, 0x1001)] |> withBytes 0x1124 [0x80, 0x91, 0xA2, 0xB3]) (fun t => (t.r 4, t.r 2)) = some (0x8091A2B3, 0x1124) := by decide
/-- R366 -/
theorem test_lwPost : ran 0x9C828918#32 (regs [(2, 0x1124)] |> withBytes 0x1124 [0x80, 0x91, 0xA2, 0xB3]) (fun t => (t.r 4, t.r 2)) = some (0x8091A2B3, 0x1247) := by decide
/-- R367 -/
theorem test_lh : ran 0xC4828123#32 (regs [(2, 0x1001)] |> withBytes 0x1124 [0x80, 0x91, 0xA2, 0xB3]) (fun t => (t.r 4, t.r 2)) = some (0xFFFF8091, 0x1001) := by decide
/-- R368 -/
theorem test_lhPre : ran 0x8C828911#32 (regs [(2, 0x1002)] |> withBytes 0x1124 [0x80, 0x91, 0xA2, 0xB3]) (fun t => (t.r 4, t.r 2)) = some (0xFFFF8091, 0x1124) := by decide
/-- R369 -/
theorem test_lhPost : ran 0x9C828911#32 (regs [(2, 0x1124)] |> withBytes 0x1124 [0x80, 0x91, 0xA2, 0xB3]) (fun t => (t.r 4, t.r 2)) = some (0xFFFF8091, 0x1246) := by decide
/-- R370 -/
theorem test_lhu : ran 0xC8828123#32 (regs [(2, 0x1001)] |> withBytes 0x1124 [0x80, 0x91, 0xA2, 0xB3]) (fun t => (t.r 4, t.r 2)) = some (0x8091, 0x1001) := by decide
/-- R371 -/
theorem test_lhuPre : ran 0x8C828912#32 (regs [(2, 0x1002)] |> withBytes 0x1124 [0x80, 0x91, 0xA2, 0xB3]) (fun t => (t.r 4, t.r 2)) = some (0x8091, 0x1124) := by decide
/-- R372 -/
theorem test_lhuPost : ran 0x9C828912#32 (regs [(2, 0x1124)] |> withBytes 0x1124 [0x80, 0x91, 0xA2, 0xB3]) (fun t => (t.r 4, t.r 2)) = some (0x8091, 0x1246) := by decide
/-- R373 -/
theorem test_lb : ran 0xCC828123#32 (regs [(2, 0x1001)] |> withBytes 0x1124 [0x80, 0x91, 0xA2, 0xB3]) (fun t => (t.r 4, t.r 2)) = some (0xFFFFFF80, 0x1001) := by decide
/-- R374 -/
theorem test_lbPre : ran 0x8C82891B#32 (regs [(2, 0x1001)] |> withBytes 0x1124 [0x80, 0x91, 0xA2, 0xB3]) (fun t => (t.r 4, t.r 2)) = some (0xFFFFFF80, 0x1124) := by decide
/-- R375 -/
theorem test_lbPost : ran 0x9C82891B#32 (regs [(2, 0x1124)] |> withBytes 0x1124 [0x80, 0x91, 0xA2, 0xB3]) (fun t => (t.r 4, t.r 2)) = some (0xFFFFFF80, 0x1247) := by decide
/-- R376 -/
theorem test_lbu : ran 0xD8828123#32 (regs [(2, 0x1001)] |> withBytes 0x1124 [0x80, 0x91, 0xA2, 0xB3]) (fun t => (t.r 4, t.r 2)) = some (0x80, 0x1001) := by decide
/-- R377 -/
theorem test_lbuPre : ran 0x8C82891E#32 (regs [(2, 0x1001)] |> withBytes 0x1124 [0x80, 0x91, 0xA2, 0xB3]) (fun t => (t.r 4, t.r 2)) = some (0x80, 0x1124) := by decide
/-- R378 -/
theorem test_lbuPost : ran 0x9C82891E#32 (regs [(2, 0x1124)] |> withBytes 0x1124 [0x80, 0x91, 0xA2, 0xB3]) (fun t => (t.r 4, t.r 2)) = some (0x80, 0x1247) := by decide
/-- R379 -/
theorem test_sw : ran 0xD0828123#32 (regs [(2, 0x1001), (4, 0x12345678)]) (fun t => (t.mem, t.r 2)) = some ([(0x1124, 0x12), (0x1125, 0x34), (0x1126, 0x56), (0x1127, 0x78)], 0x1001) := by decide
/-- R380 -/
theorem test_swPre : ran 0x8C82891C#32 (regs [(2, 0x1001), (4, 0x12345678)]) (fun t => (t.mem, t.r 2)) = some ([(0x1124, 0x12), (0x1125, 0x34), (0x1126, 0x56), (0x1127, 0x78)], 0x1124) := by decide
/-- R381 -/
theorem test_swPost : ran 0x9C82891C#32 (regs [(2, 0x1124), (4, 0x12345678)]) (fun t => (t.mem, t.r 2)) = some ([(0x1124, 0x12), (0x1125, 0x34), (0x1126, 0x56), (0x1127, 0x78)], 0x1247) := by decide
/-- R382 -/
theorem test_sh : ran 0xD4828123#32 (regs [(2, 0x1001), (4, 0x12345678)]) (fun t => (t.mem, t.r 2)) = some ([(0x1124, 0x56), (0x1125, 0x78)], 0x1001) := by decide
/-- R383 -/
theorem test_shPre : ran 0x8C828915#32 (regs [(2, 0x1002), (4, 0x12345678)]) (fun t => (t.mem, t.r 2)) = some ([(0x1124, 0x56), (0x1125, 0x78)], 0x1124) := by decide
/-- R384 -/
theorem test_shPost : ran 0x9C828915#32 (regs [(2, 0x1124), (4, 0x12345678)]) (fun t => (t.mem, t.r 2)) = some ([(0x1124, 0x56), (0x1125, 0x78)], 0x1246) := by decide
/-- R385 -/
theorem test_sb : ran 0xDC828123#32 (regs [(2, 0x1001), (4, 0x12345678)]) (fun t => (t.mem, t.r 2)) = some ([(0x1124, 0x78)], 0x1001) := by decide
/-- R386 -/
theorem test_sbPre : ran 0x8C82891F#32 (regs [(2, 0x1001), (4, 0x12345678)]) (fun t => (t.mem, t.r 2)) = some ([(0x1124, 0x78)], 0x1124) := by decide
/-- R387 -/
theorem test_sbPost : ran 0x9C82891F#32 (regs [(2, 0x1124), (4, 0x12345678)]) (fun t => (t.mem, t.r 2)) = some ([(0x1124, 0x78)], 0x1247) := by decide
/-- R84 -/
theorem test_store_little_endian : ran 0xD0828123#32 { regs [(2, 0x1001), (4, 0x12345678)] with cfg := { Config.default with bigEndian := false } }
      (fun t => t.mem) = some [(0x1124, 0x78), (0x1125, 0x56), (0x1126, 0x34), (0x1127, 0x12)] := by decide
/-- R390 -/
theorem test_lcb : ran 0x80028060#32 (regs [(2, 0x1001)] |> withBytes 0x1000 [0x11, 0x22, 0x33, 0x44]) (fun t => (t.lcr, t.r 2)) = some (0x11223344, 0x1005) := by decide
/-- R391 -/
theorem test_lcw : ran 0x80828062#32 { withBytes 0x1004 [0x55, 0x66, 0x77, 0x88] (regs [(2, 0x1005)]) with lcr := 0x11223344 } (fun t => (t.r 4, t.lcr, t.r 2)) = some (0x22334455, 0x55667788, 0x1009) := by decide
/-- R392 -/
theorem test_lce : ran 0x80828066#32 { withBytes 0x1004 [0x55] (regs [(2, 0x1005)]) with lcr := 0x11223344 } (fun t => (t.r 4, t.r 2)) = some (0x22334455, 0x1009) := by decide
/-- R392 -/
theorem test_lce_byte_zero : ran 0x80828066#32 { withBytes 0x1004 [0x55] (regs [(2, 0x1004)]) with lcr := 0x11223344 } (fun t => (t.r 4, t.lcr)) = some (0x11223344, 0x11223344) := by decide
/-- R395 -/
theorem test_scb : ran 0x80828068#32 (regs [(4, 0xAABBCCDD), (2, 0x1001)]) (fun t => (t.mem, t.scr, t.r 2)) = some ([(0x1001, 0xAA), (0x1002, 0xBB), (0x1003, 0xCC)], 0xDDAABBCC, 0x1005) := by decide
/-- R396 -/
theorem test_scw : ran 0x8082806A#32 { regs [(4, 0x01020304), (2, 0x1005)] with scr := 0xDDAABBCC } (fun t => (t.mem, t.scr, t.r 2)) = some ([(0x1004, 0xDD), (0x1005, 1), (0x1006, 2), (0x1007, 3)], 0x04010203, 0x1009) := by decide
/-- R397 -/
theorem test_sce : ran 0x8002806E#32 { regs [(2, 0x1005)] with scr := 0xDDAABBCC } (fun t => (t.mem, t.r 2)) = some ([(0x1004, 0xDD)], 0x1009) := by decide
/-- R398 -/
theorem test_alw : ran 0x8082800C#32 (regs [(2, 0x2000)] |> withBytes 0x2003 [1]) (fun t => (t.r 4, t.atbit)) = some (1, true) := by decide
/-- R399 -/
theorem test_asw : ran 0x8082800E#32 { regs [(4, 5), (2, 0x2000)] with atbit := true } (fun t => (t.mem, t.r 4)) = some ([(0x2003, 5)], 1) := by decide
/-- R399 -/
theorem test_asw_without_atbit : ran 0x8082800E#32 (regs [(4, 5), (2, 0x2000)]) (fun t => (t.mem, t.r 4)) = some ([], 0) := by decide
/-- R421 -/
theorem test_mul : ran 0x80028C40#32 (regs [(2, 0x12345678), (3, 0x9ABCDEF0)]) (fun t => (t.ceh, t.cel)) = some (0xF8CC93D6, 0x242D2080) := by decide
/-- R422 -/
theorem test_mulu : ran 0x80028C42#32 (regs [(2, 0x12345678), (3, 0x9ABCDEF0)]) (fun t => (t.ceh, t.cel)) = some (0x0B00EA4E, 0x242D2080) := by decide
/-- R424 -/
theorem test_div : ran 0x80028C44#32 (regs [(2, 7), (3, 0xFFFFFFFE)]) (fun t => (t.ceh, t.cel)) = some (1, 0xFFFFFFFD) := by decide
/-- R424 -/
theorem test_div_negative : ran 0x80028C44#32 (regs [(2, 0xFFFFFFF9), (3, 2)]) (fun t => (t.ceh, t.cel)) = some (0xFFFFFFFF, 0xFFFFFFFD) := by decide
/-- R425 -/
theorem test_divu : ran 0x80028C46#32 (regs [(2, 0xFFFFFFF9), (3, 2)]) (fun t => (t.ceh, t.cel)) = some (1, 0x7FFFFFFC) := by decide
/-- R423, R643 -/
theorem test_divu_by_zero : ran 0x80028C46#32 (regs [(2, 7)]) (fun t => (t.ecr.excCode, t.pc)) = some (16, 0x9F000200) := by decide
/-- R431 -/
theorem test_mfcel : ran 0x80808448#32 { State.reset with ceh := 1, cel := 0xFFFFFFFA } (fun t => t.r 4) = some 0xFFFFFFFA := by decide
/-- R432 -/
theorem test_mfceh : ran 0x80808848#32 { State.reset with ceh := 1, cel := 0xFFFFFFFA } (fun t => t.r 4) = some 1 := by decide
/-- R433 -/
theorem test_mfcehl : ran 0x80828C48#32 { State.reset with ceh := 2, cel := 0xFFFFFFFA } (fun t => (t.r 4, t.r 2)) = some (2, 0xFFFFFFFA) := by decide
/-- R434 -/
theorem test_mtcel : ran 0x8080844A#32 (regs [(4, 7)]) (fun t => (t.ceh, t.cel)) = some (0, 7) := by decide
/-- R435 -/
theorem test_mtceh : ran 0x8080884A#32 (regs [(4, 7)]) (fun t => (t.ceh, t.cel)) = some (7, 0) := by decide
/-- R436 -/
theorem test_mtcehl : ran 0x80828C4A#32 (regs [(4, 1), (2, 2)]) (fun t => (t.ceh, t.cel)) = some (1, 2) := by decide
/-- R440 -/
theorem test_ceinst_absent : ran 0xF0229040#32 State.reset (fun t => t.ecr.excCode) = some 9 := by decide
/-- R443, R640 -/
theorem test_mtc3_unusable : ran 0x99CF8018#32 State.reset (fun t => (t.ecr.excCode, t.ecr.ce)) = some (8, 3) := by decide
/-- R443 -/
theorem test_mtc3 : ran 0x99CF8018#32 (copState.setR 14 7) (fun t => (t.copData .cp3 15, t.copCtrl .cp3 15)) = some (7, 0) := by decide
/-- R445 -/
theorem test_mtcc3 : ran 0x99CF801E#32 (copState.setR 14 7) (fun t => (t.copData .cp3 15, t.copCtrl .cp3 15)) = some (0, 7) := by decide
/-- R444 -/
theorem test_mfc2 : ran 0x98888011#32 (copState.setCopData .cp2 8 7) (fun t => t.r 4) = some 7 := by decide
/-- R446 -/
theorem test_mfcc2 : ran 0x98888017#32 (copState.setCopCtrl .cp2 8 7) (fun t => t.r 4) = some 7 := by decide
/-- R447 -/
theorem test_ldc3 : ran 0x9888825A#32 (withBytes 0x104B [5] (copState.setR 4 0x1000)) (fun t => t.copData .cp3 8) = some 5 := by decide
/-- R448 -/
theorem test_stc1 : ran 0x9888824B#32 ((copState.setR 4 0x1000).setCopData .cp1 8 5) (fun t => t.mem) = some [(0x104B, 5)] := by decide
/-- R442 -/
theorem test_cop1_absent : ran 0x98A4CFEC#32 { State.reset with psr := { State.reset.psr with cu := 7 } } (fun t => t.ecr.excCode) = some 9 := by decide
/-- R461, R651; the worked entry of 45_system.md -/
theorem test_syscall : ran 0x8004B802#32 syscallState (fun t => (psrWord true t.psr, condWord t.cond, t.epc.word, t.ecr.excCode, t.pc)) = some (0x0000800C, 0x14A, 0x1000, 7, 0x9F000200) := by decide
/-- R462 -/
theorem test_trapeq : ran 0x800E9004#32 ((regs []).setFlags ⟨false, false, true, false, false⟩) (fun t => (t.ecr.excCode, t.epc.word)) = some (10, 0x9F000000) := by decide
/-- R462 -/
theorem test_trapeq_not_taken : ran 0x800E9004#32 State.reset (fun t => t.pc) = some 0x9F000004 := by decide
/-- R465 -/
theorem test_sdbbp : ran 0x800E8006#32 ((State.reset).jump 0x80000200) (fun t => (t.depc.word, dregWord false false t.dreg &&& 0x0400007F, t.pc)) = some (0x80000200, 0x04000002, 0x9F0001FC) := by decide
/-- R470 -/
theorem test_rte : ran 0x98008084#32 { State.reset with psr := psrOfWord 8, cond := condOfWord 0x140, epc := ⟨0x802, true⟩ } (fun t => (psrWord false t.psr, condWord t.cond, t.pc)) = some (2, 0xA, 0x1004) := by decide
/-- R472 -/
theorem test_drte : ran 0x980080A4#32 { State.reset with dreg := { State.reset.dreg with dm := true }, depc := ⟨0x40000102, false⟩ } (fun t => (t.pc, t.dreg.dm)) = some (0x80000204, false) := by decide
/-- R476 -/
theorem test_sleep : ran 0x980080C4#32 ((State.reset).jump 0x80000300) (fun t => (t.sleeping, t.pc)) = some (true, 0x80000304) := by decide
/-- R480, R40 -/
theorem test_mfcr : ran 0x98828001#32 { State.reset with ecr := ⟨2, 1, 7⟩ } (fun t => t.r 4) = some 0x00020047 := by decide
/-- R481 -/
theorem test_mtcr : ran 0x98808000#32 (regs [(4, 0xFFFFFFFF)]) (fun t => psrWord true t.psr) = some 0xF0FF803F := by decide
/-- R481 -/
theorem test_mtcr_ecr : ran 0x98828000#32 (regs [(4, 0xFFFFFFFF)]) (fun t => ecrWord 0 t.ecr) = some 0x00030000 := by decide
/-- R127 -/
theorem test_cache_toggle : ran 0xE3608000#32 State.reset (fun t => t.ccr.wb) = some true := by decide
/-- R485, R125 -/
theorem test_cache_undefined : ran 0xE0A08000#32 State.reset (fun t => t.ecr.excCode) = some 9 := by decide
/-- R490 -/
theorem test_pflush : ran 0x8000800A#32 ((State.reset).jump 0x80000010) (fun t => decide (t = State.reset.jump 0x80000014)) = some true := by decide
/-- R200 -/
theorem test_stlb : ran 0x98008004#32 State.reset (fun t => t.ecr.excCode) = some 9 := by decide
/-- R515 -/
theorem test_add16 : ran16 0x2420#16 (regs [(4, 5), (2, 7)]) (fun t => (t.r 4, t.flags, t.pc)) = some (12, Flags.zero, 0x9F000002) := by decide
/-- R516 -/
theorem test_addc16 : ran16 0x0F79#16 ((regs [(15, 1), (7, 2)]).setFlags ⟨false, false, false, true, false⟩) (fun t => (t.r 15, t.flags)) = some (4, Flags.zero) := by decide
/-- R517 -/
theorem test_sub16 : ran16 0x2E11#16 (regs [(14, 10), (1, 3)]) (fun t => (t.r 14, t.flags)) = some (7, ⟨false, false, false, true, false⟩) := by decide
/-- R518 -/
theorem test_cmp16 : ran16 0x2623#16 ((regs [(6, 2), (2, 5)]).setFlags ⟨true, false, false, false, false⟩) (fun t => t.flags) = some ⟨true, true, false, false, false⟩ := by decide
/-- R519 -/
theorem test_neg16 : ran16 0x2912#16 (regs [(1, 5)]) (fun t => (t.r 9, t.flags)) = some (0xFFFFFFFB, ⟨false, true, false, false, false⟩) := by decide
/-- R520 -/
theorem test_addei16 : ran16 0x6958#16 (regs [(9, 0xFFFFF800)]) (fun t => (t.r 9, t.flags)) = some (0, ⟨false, false, true, true, false⟩) := by decide
/-- R521 -/
theorem test_subei16 : ran16 0x6AF0#16 (regs [(10, 0x4000)]) (fun t => (t.r 10, t.flags)) = some (0, ⟨false, false, true, true, false⟩) := by decide
/-- R522 -/
theorem test_mv16 : ran16 0x0F63#16 (regs [(6, 0x12345678)]) (fun t => t.r 15) = some 0x12345678 := by decide
/-- R524 -/
theorem test_mhfl16 : ran16 0x0EC2#16 (regs [(12, 7)]) (fun t => t.r 30) = some 7 := by decide
/-- R525 -/
theorem test_mlfh16 : ran16 0x04C1#16 (regs [(28, 9)]) (fun t => t.r 4) = some 9 := by decide
/-- R523 -/
theorem test_ldiu16 : ran16 0x540E#16 State.reset (fun t => t.r 4) = some 0xE := by decide
/-- R526 -/
theorem test_nop16 : ran16 0x0000#16 State.reset (fun t => decide (t = State.reset.jump 0x9F000002)) = some true := by decide
/-- R527 -/
theorem test_and16 : ran16 0x2E24#16 (regs [(14, 0xF0F0F0F0), (2, 0x0FF00FF0)]) (fun t => (t.r 14, t.flags)) = some (0x00F000F0, Flags.zero) := by decide
/-- R528 -/
theorem test_or16 : ran16 0x2B25#16 (regs [(11, 0x80000000), (2, 1)]) (fun t => (t.r 11, t.flags)) = some (0x80000001, ⟨false, true, false, false, false⟩) := by decide
/-- R529 -/
theorem test_xor16 : ran16 0x29D7#16 (regs [(9, 0xFF00FF00), (13, 0x0FF00FF0)]) (fun t => (t.r 9, t.flags)) = some (0xF0F0F0F0, ⟨false, true, false, false, false⟩) := by decide
/-- R530 -/
theorem test_not16 : ran16 0x2426#16 (regs [(2, 0)]) (fun t => (t.r 4, t.flags)) = some (0xFFFFFFFF, ⟨false, true, false, false, false⟩) := by decide
/-- R532 -/
theorem test_bitclr16 : ran16 0x6574#16 (regs [(5, 0x4001)]) (fun t => (t.r 5, t.flags)) = some (1, Flags.zero) := by decide
/-- R533 -/
theorem test_bitset16 : ran16 0x684D#16 (regs [(8, 0)]) (fun t => (t.r 8, t.flags)) = some (0x200, ⟨false, false, true, false, false⟩) := by decide
/-- R534 -/
theorem test_bittgl16 : ran16 0x6077#16 (regs [(0, 0)]) (fun t => (t.r 0, t.flags)) = some (0x4000, ⟨false, false, true, false, false⟩) := by decide
/-- R535 -/
theorem test_bittst16 : ran16 0x6776#16 (regs [(7, 0x80004000)]) (fun t => t.flags) = some ⟨false, true, false, false, false⟩ := by decide
/-- R536 -/
theorem test_sll16 : ran16 0x0428#16 (regs [(4, 0xC0000001), (2, 1)]) (fun t => (t.r 4, t.flags)) = some (0x80000002, ⟨false, true, false, true, false⟩) := by decide
/-- R537 -/
theorem test_srl16 : ran16 0x060A#16 (regs [(6, 0x80000003), (0, 2)]) (fun t => (t.r 6, t.flags)) = some (0x20000000, ⟨false, false, false, true, false⟩) := by decide
/-- R538 -/
theorem test_sra16 : ran16 0x0BCB#16 (regs [(11, 0x80000004), (12, 3)]) (fun t => (t.r 11, t.flags)) = some (0xF0000000, ⟨false, true, false, true, false⟩) := by decide
/-- R539 -/
theorem test_slli16 : ran16 0x6E71#16 (regs [(14, 0x00040001)]) (fun t => (t.r 14, t.flags)) = some (0x4000, ⟨false, false, false, true, false⟩) := by decide
/-- R540 -/
theorem test_srli16 : ran16 0x6973#16 (regs [(9, 0x00012000)]) (fun t => (t.r 9, t.flags)) = some (4, ⟨false, false, false, true, false⟩) := by decide
/-- R541 -/
theorem test_tcc16 : ran16 0x0105#16 State.reset (fun t => t.flags) = some ⟨true, false, false, false, false⟩ := by decide
/-- R542 -/
theorem test_j16 : ran16 0x3124#16 ((State.reset).jump 0x100) (fun t => t.pc) = some 0x124 := by decide
/-- R543 -/
theorem test_jl16 : ran16 0x3FFF#16 ((State.reset).jump 0x202) (fun t => (t.r 3, t.pc)) = some (0x204, 0xFFE) := by decide
/-- R544 -/
theorem test_beq16 : ran16 0x4404#16 (((regs []).setFlags ⟨false, false, true, false, false⟩).jump 0x100) (fun t => t.pc) = some 0x108 := by decide
/-- R544 -/
theorem test_bne16_back : ran16 0x45FD#16 ((State.reset).jump 0x106) (fun t => t.pc) = some 0x100 := by decide
/-- R545 -/
theorem test_brcc16 : ran16 0x01C4#16 (regs [(12, 0x2000)]) (fun t => t.pc) = some 0x2000 := by decide
/-- R546 -/
theorem test_brccl16 : ran16 0x01CC#16 ((regs [(12, 0x2000)]).jump 0x300) (fun t => (t.r 3, t.pc)) = some (0x302, 0x2000) := by decide
/-- R550 -/
theorem test_lwp16 : ran16 0x7770#16 (regs [(2, 0x1000)] |> withBytes 0x1038 [1, 2, 3, 4]) (fun t => t.r 7) = some 0x01020304 := by decide
/-- R551 -/
theorem test_lhp16 : ran16 0x7471#16 (regs [(2, 0x1000)] |> withBytes 0x101C [0x80, 1]) (fun t => t.r 4) = some 0xFFFF8001 := by decide
/-- R552 -/
theorem test_lbup16 : ran16 0x7F73#16 (regs [(2, 0x1000)] |> withBytes 0x100E [0xFE]) (fun t => t.r 15) = some 0xFE := by decide
/-- R553 -/
theorem test_swp16 : ran16 0x7874#16 (regs [(2, 0x1000), (8, 0xDEADBEEF)]) (fun t => t.mem) = some [(0x1038, 0xDE), (0x1039, 0xAD), (0x103A, 0xBE), (0x103B, 0xEF)] := by decide
/-- R554 -/
theorem test_shp16 : ran16 0x763D#16 (regs [(2, 0x1000), (6, 0x12345678)]) (fun t => t.mem) = some [(0x100E, 0x56), (0x100F, 0x78)] := by decide
/-- R555 -/
theorem test_sbp16 : ran16 0x7477#16 (regs [(2, 0x1000), (4, 0x1AB)]) (fun t => t.mem) = some [(0x100E, 0xAB)] := by decide
/-- R560 -/
theorem test_push16 : ran16 0x20AE#16 (regs [(2, 0x2000), (16, 0x11112222)]) (fun t => (t.mem, t.r 2)) = some ([(0x1FFC, 0x11), (0x1FFD, 0x11), (0x1FFE, 0x22), (0x1FFF, 0x22)], 0x1FFC) := by decide
/-- R578 -/
theorem test_push16_misaligned : ran16 0x208E#16 (regs [(0, 0x2002), (16, 0xAAAA5555)]) (fun t => (t.ecr.excCode, t.ema, t.r 0, t.mem)) = some (12, 0x1FFE, 0x2002, []) := by decide
/-- R561 -/
theorem test_pop16 : ran16 0x22AA#16 (regs [(2, 0x1FFC)] |> withBytes 0x1FFC [0x11, 0x11, 0x22, 0x22]) (fun t => (t.r 18, t.r 2)) = some (0x11112222, 0x2000) := by decide
/-- R562 -/
theorem test_lw16 : ran16 0x2628#16 (regs [(2, 0x1000)] |> withBytes 0x1000 [1, 2, 3, 4]) (fun t => t.r 6) = some 0x01020304 := by decide
/-- R563 -/
theorem test_lh16 : ran16 0x2D59#16 (regs [(5, 0x1000)] |> withBytes 0x1000 [0xFF, 0xFE]) (fun t => t.r 13) = some 0xFFFFFFFE := by decide
/-- R564 -/
theorem test_lbu16 : ran16 0x24DB#16 (regs [(13, 0x1000)] |> withBytes 0x1000 [0x80]) (fun t => t.r 4) = some 0x80 := by decide
/-- R565 -/
theorem test_sw16 : ran16 0x242C#16 (regs [(2, 0x1000), (4, 0xCAFEF00D)]) (fun t => t.mem) = some [(0x1000, 0xCA), (0x1001, 0xFE), (0x1002, 0xF0), (0x1003, 0x0D)] := by decide
/-- R566 -/
theorem test_sh16 : ran16 0x2D5D#16 (regs [(5, 0x1000), (13, 0x12345678)]) (fun t => t.mem) = some [(0x1000, 0x56), (0x1001, 0x78)] := by decide
/-- R567 -/
theorem test_sb16 : ran16 0x242F#16 (regs [(2, 0x1000), (4, 0x1FF)]) (fun t => t.mem) = some [(0x1000, 0xFF)] := by decide
/-- R570, R680 -/
theorem test_sdbbp16 : ran16 0x6002#16 ((State.reset).jump 0x202) (fun t => (t.depc.word, t.dreg.dm, t.dreg.cause.dbp, t.pc)) = some (0x203, true, true, 0x9F0001FC) := by decide

/-! ## Whole steps -/

/-- An idle step's inputs but for the interrupt level. -/
def irqPins (n : BitVec 6) : Pins := { Pins.idle with irq := n }

/-- R656 line 3: a hardware interrupt with VO = 1, at the lower half of a word -/
theorem test_step_interrupt :
    stepped { State.reset with psr := psrOfWord 0x00010001, excpVec := ⟨0x8000, true⟩, pc := 0x80004002, inputs := [irqPins 9] }
      (fun t => (psrWord false t.psr, t.ecr.excCode, t.epc.addr ++ 0#1, t.pc)) =
      some (0x00010004, 20, 0x80004002, 0x80000290) := by decide
/-- R656 line 2: a misaligned load in a handler -/
theorem test_step_misaligned :
    stepped (({ regs [(5, 0x2002), (4, 9)] with psr := psrOfWord 0xC, pc := 0x9F000210 } : State).placeWord 0xC0858000)
      (fun t => (psrWord false t.psr, t.ecr.excCode, t.ema, t.epc.word, t.r 4, t.pc)) =
      some (0x30, 11, 0x2002, 0x9F000210, 9, 0x9F000200) := by decide
/-- R675: a software interrupt discards the instruction of its step -/
theorem test_step_software_interrupt :
    stepped (({ regs [(5, 7)] with psr := psrOfWord 1, ecr := ⟨2, 0, 0⟩, pc := 0x80000104 } : State).placeWord 0x84A08002)
      (fun t => (t.r 5, psrWord false t.psr, ecrWord 0 t.ecr, t.epc.addr ++ 0#1, t.pc)) =
      some (7, 4, 0x00020013, 0x80000104, 0x9F000200) := by decide
/-- R476: a hardware interrupt wakes a sleeping core -/
theorem test_step_wake :
    stepped { State.reset with psr := psrOfWord 1, sleeping := true, pc := 0x80000304, inputs := [irqPins 5] }
      (fun t => (t.sleeping, t.epc.addr ++ 0#1, t.ecr.excCode, t.pc)) = some (false, 0x80000304, 20, 0x9F000214) := by decide
/-- R718 steps 2 and 3: a misaligned load in debug mode re-enters it -/
theorem test_step_reentry :
    stepped (({ regs [(6, 0x1002)] with dreg := { State.reset.dreg with dm := true, cause := DebugExc.dbp.cause }, pc := 0x9F000200 } :
      State).placeWord 0xC0A68000)
      (fun t => (t.depc.addr ++ 0#1, t.dreg.cause, t.dreg.dExcCode, t.pc, t.ema, t.ecr.excCode)) =
      some (0x9F000200, DebugCause.none, 11, 0x9F0001FC, 0, 0) := by decide
/-- R718 step 6: single step -/
theorem test_step_single_step :
    stepped { State.reset with dreg := { State.reset.dreg with ssEn := true }, stepped := true, pc := 0x80000208 }
      (fun t => (t.depc.addr ++ 0#1, dregWord false false t.dreg, t.pc)) = some (0x80000208, 0x04000101, 0x9F0001FC) := by decide
/-- R712: the worked data breakpoint -/
theorem test_data_breakpoint :
    ran 0xD0858000#32 { regs [(5, 0x2000), (4, 1)] with
        dbrk := [(({ DataBreak.reset with addr := 0x2000, mask := 3 } : DataBreak).write 0xC 0x00002F41)] }
      (fun t => (t.dreg.cause.ddbs, t.depc.word, t.mem)) = some (true, 0x9F000000, []) := by decide
/-- R712: a byte store does not match it -/
theorem test_data_breakpoint_byte :
    ran 0xDC858001#32 { regs [(5, 0x2000), (4, 1)] with
        dbrk := [(({ DataBreak.reset with addr := 0x2000, mask := 3 } : DataBreak).write 0xC 0x00002F41)] }
      (fun t => (t.dreg.dm, t.mem)) = some (false, [(0x2001, 1)]) := by decide
/-- R576: a PCE word with T = 0 runs its lower half, and its successor is the next word -/
theorem test_step_pce_lower :
    stepped (({ State.reset with pc := 0x108 } : State).placeWord 0x5601D600) (fun t => (t.r 6, t.pc)) = some (0, 0x10C) := by decide
/-- R576: with T = 1 the higher half -/
theorem test_step_pce_higher :
    stepped ((({ State.reset with pc := 0x108 } : State).setFlags ⟨true, false, false, false, false⟩).placeWord 0x5601D600)
      (fun t => (t.r 6, t.pc)) = some (1, 0x10C) := by decide
/-- R577: `jl!` in the higher half links to the lower half of its word -/
theorem test_step_jl16 :
    stepped (({ State.reset with pc := 0x200 } : State).placeWord 0x33010000) (fun t => (t.r 3, t.pc)) = some (0x202, 0x300) := by
  decide
/-- R272, R141: memory of zeros holds two `nop!`, so the machine runs from reset -/
theorem test_step_reset : stepped State.reset (fun t => (t.pc, t.ecr.excCode)) = some (0x9F000002, 0) := by decide
/-- R141: P-bits 10 raise P-EL -/
theorem test_step_parity :
    stepped (State.reset.placeWord 0x80000000) (fun t => (t.ecr.excCode, t.ema, t.pc)) = some (6, 0x9F000000, 0x9F000200) := by
  decide
/-- R720: the reset input -/
theorem test_step_reset_input :
    stepped { regs [(1, 5)] with pc := 0x100, sleeping := true, inputs := [{ Pins.idle with reset := true }] }
      (fun t => (t.pc, t.sleeping, t.inputs)) = some (0x9F000000, false, []) := by decide
theorem test_table_word_32 : decodeTableWord 32 0x00418810 = some (.add 4 3 2 false) := by decide
theorem test_table_word_16 : decodeTableWord 16 0x2420 = some (.add16 4 2) := by decide
theorem test_fetch_word_32 :
    stepped (State.reset.withFetchWord 32 0x024D579A) (fun t => (t.r 4, t.pc)) = some (0xFFFFABCD, 0x9F000004) := by decide
theorem test_fetch_word_16 :
    stepped (State.reset.withFetchWord 16 0x540E) (fun t => (t.r 4, t.pc)) = some (0xE, 0x9F000002) := by decide
/-- R120, R127: with cacheable memory a store in write-back mode leaves memory to a later line write-out -/
theorem test_cache_write_back :
    ran 0xD1048000#32 { cacheState with ccr := { State.reset.ccr with wback := true } }
      (fun t => (t.mem, t.readByte 0x103, (t.cacheOp 0x0D 0x100).mem)) = some ([], 7, [(0x103, 7)]) := by decide
/-- R101, R731, D4: the reset vector is uncached although the platform answers that all memory is cached -/
theorem test_cacheable_reset_vector :
    [0x9F000000, 0x9F00001C, 0x9F000020, 0xFF000000].map
      ({ State.reset with cfg := { Config.default with cacheable := [⟨0, 2 ^ 32⟩] } } : State).cacheable =
      [false, false, true, false] := by decide
/-- R694, R704: in debug mode IBA1 is fetched and executed, here `ldi r4, 0xABCD` -/
theorem test_step_drseg :
    stepped { State.reset with
        pc := 0xFFFF2000, dreg := { State.reset.dreg with dm := true }
        ibrk := [{ InstrBreak.reset with addr := 0x849AD79A }] } (fun t => (t.r 4, t.pc)) = some (0xFFFFABCD, 0xFFFF2004) := by
  decide
/-- R85, R712: a misaligned `lh` at 0x2001 uses the lanes of its halfword -/
theorem test_lanes_misaligned_half :
    (((Acc.at 0x2001 2).view true []).lanes, ((Acc.at 0x2001 2).view false []).lanes) = (0xC, 0x3) := by decide
/-- R117: a store does not change what a line of the I-cache holds -/
theorem test_icache_not_coherent :
    ran 0xD1048000#32 { cacheState with icache := ⟨[⟨0x100, false, false, false, List.replicate 16 0⟩], []⟩ }
      (fun t => (t.readByte 0x103, t.fetchByte 0x103)) = some (7, 0) := by decide

/-- The write buffer enabled with `n` stored bytes waiting, the oldest 1 at 0x2000. -/
def bufferState (n : Nat) : State :=
  { cacheState with
    ccr := { State.reset.ccr with wb := true }
    wbuf := (List.range n).map fun k => ⟨[(BitVec.ofNat 32 (0x2000 + k), BitVec.ofNat 8 (k + 1))]⟩ }

/-- R110, R112, R117: a buffered store is what a load sees, not yet what memory holds and a fetch reads -/
theorem test_store_waits :
    ran 0xD1048000#32 (bufferState 0) (fun t => (t.mem, t.readByte 0x103, t.fetchByte 0x103, t.wbuf)) =
      some ([], 7, 0, [⟨[(0x100, 0), (0x101, 0), (0x102, 0), (0x103, 7)]⟩]) := by decide
/-- R112, R120: four words; a fifth store sends the oldest to memory -/
theorem test_buffer_full :
    ran 0xD1048000#32 (bufferState 4) (fun t => (t.mem, t.wbuf.length, t.readByte 0x2003)) = some ([(0x2000, 1)], 4, 4) := by
  decide
/-- R114, R131: cache 1A drains the buffer -/
theorem test_cache_drain :
    ran 0xE3448000#32 (bufferState 2) (fun t => (t.mem, t.wbuf, t.ccr.wb)) = some ([(0x2000, 1), (0x2001, 2)], [], true) := by
  decide
/-- R110, R126: cache 1B disables the buffer, which is drained -/
theorem test_cache_buffer_off :
    ran 0xE3648000#32 (bufferState 2) (fun t => (t.mem, t.wbuf, t.ccr.wb)) = some ([(0x2000, 1), (0x2001, 2)], [], false) := by
  decide
/-- R113: with CCR.RdBpDis = 1 a load waits for the drain, with 0 it does not -/
theorem test_load_bypass :
    (ran 0xC1048000#32 (bufferState 2) (fun t => (t.mem, t.wbuf.length)),
      ran 0xC1048000#32 { bufferState 2 with ccr := { State.reset.ccr with wb := true, rdBpDis := true } }
        (fun t => (t.mem, t.wbuf.length))) = (some ([], 2), some ([(0x2000, 1), (0x2001, 2)], 0)) := by decide
/-- R60, R720: the write buffer is empty after reset -/
theorem test_reset_empties_buffer :
    stepped { bufferState 2 with inputs := [{ Pins.idle with reset := true }] } (fun t => (t.wbuf, t.ccr.wb)) =
      some ([], false) := by decide

/-! ## Witnesses: for each statement with hypotheses, a state and operands that meet them -/

theorem witness_FetchSelection :
    ((0x80000000#32).getLsbD 31 = true ∧ (0x80000000#32).getLsbD 15 = false) ∧
    ((0x80008000#32).getLsbD 31 = true ∧ (0x80008000#32).getLsbD 15 = true ∧ (2#32).getLsbD 1 = true ∧ (0#32).getLsbD 1 = false) ∧
    ((0#32).getLsbD 31 = false ∧ (0#32).getLsbD 15 = false) ∧
    ((0x00008000#32).getLsbD 31 = false ∧ (0x00008000#32).getLsbD 15 = true) := by decide

/-- The address of a number. -/
abbrev ad (n : Nat) : Word := BitVec.ofNat 32 n

/-- An instruction word at the reset vector, in a state some clause speaks of. -/
def at0 (w : Word) : State := State.reset.placeWord w

theorem witness_StepRunsDecoded_next :
    Fetches (at0 0x80838810) ∧ (at0 0x80838810).checkFetch = .ok ∧
    selectCode (at0 0x80838810).pcWord (at0 0x80838810).pc (at0 0x80838810).flags.t = .run (.w32 0x00418810) 0x9F000000 false ∧
    decode (.w32 0x00418810) = .ok (.add 4 3 2 false) ∧ (at0 0x80838810).dreg.dm = false ∧
    (at0 0x80838810).busErrPending = false ∧ ¬ SwiRequested (at0 0x80838810) ∧
    ranInstr (.add 4 3 2 false) (at0 0x80838810) State.raised = some false := by
  refine ⟨by unfold Fetches; decide, by decide, by decide, by decide, by decide, by decide, ?_, by decide⟩
  rintro ⟨h, -⟩
  exact absurd h (by decide)

theorem witness_StepRunsDecoded_pce :
    Fetches (at0 0x5601D600) ∧ (at0 0x5601D600).checkFetch = .ok ∧
    selectCode (at0 0x5601D600).pcWord (at0 0x5601D600).pc (at0 0x5601D600).flags.t = .run (.w16 0x5600) 0x9F000002 true ∧
    decode (.w16 0x5600) = .ok (.ldiu16 6 0) := by
  refine ⟨by unfold Fetches; decide, by decide, by decide, by decide⟩

theorem witness_StepRunsDecoded_raised :
    Fetches (at0 0x8004B802) ∧ (at0 0x8004B802).checkFetch = .ok ∧
    selectCode (at0 0x8004B802).pcWord (at0 0x8004B802).pc (at0 0x8004B802).flags.t = .run (.w32 0x00023802) 0x9F000000 false ∧
    decode (.w32 0x00023802) = .ok (.syscall 0x8E) ∧ ranInstr (.syscall 0x8E) (at0 0x8004B802) State.raised = some true := by
  refine ⟨by unfold Fetches; decide, by decide, by decide, by decide, by decide⟩

/-- A bus error pending, a software interrupt requested. -/
def pendingState : State := { at0 0x80838810 with busErrPending := true }
def swiState : State := { at0 0x80838810 with psr := psrOfWord 1, ecr := ⟨1, 0, 0⟩ }

theorem witness_StepRunsDecoded_pending :
    Fetches pendingState ∧ pendingState.checkFetch = .ok ∧
    selectCode pendingState.pcWord pendingState.pc pendingState.flags.t = .run (.w32 0x00418810) 0x9F000000 false ∧
    ranInstr (.add 4 3 2 false) pendingState State.raised = some false ∧ pendingState.dreg.dm = false ∧
    pendingState.busErrPending = true := by
  refine ⟨by unfold Fetches; decide, by decide, by decide, by decide, by decide, by decide⟩

theorem witness_StepRunsDecoded_swi :
    Fetches swiState ∧ swiState.checkFetch = .ok ∧
    selectCode swiState.pcWord swiState.pc swiState.flags.t = .run (.w32 0x00418810) 0x9F000000 false ∧
    ranInstr (.add 4 3 2 false) swiState State.raised = some false ∧ swiState.dreg.dm = false ∧
    swiState.busErrPending = false ∧ SwiRequested swiState := by
  refine ⟨by unfold Fetches; decide, by decide, by decide, by decide, by decide, by decide, by decide, 0, by decide⟩

/-- An instruction that faults and one that is refused, in debug mode. -/
def faultState : State := { at0 0xC0828000 with dreg := { State.reset.dreg with dm := true }, gpr := (regs [(2, 0xFF000000)]).gpr }

theorem witness_StepRunsDecoded_fault :
    Fetches faultState ∧ faultState.checkFetch = .ok ∧
    selectCode faultState.pcWord faultState.pc faultState.flags.t = .run (.w32 0x20410000) 0x9F000000 false ∧
    decode (.w32 0x20410000) = .ok (.lw 4 2 0) ∧ exec (.lw 4 2 0) faultState = .fault .noProbe ∧ faultState.dreg.dm = true := by
  refine ⟨by unfold Fetches; decide, by decide, by decide, by decide, by rfl, by decide⟩

theorem witness_StepRunsDecoded_refused :
    Fetches (at0 0x8082B856) ∧ (at0 0x8082B856).checkFetch = .ok ∧
    selectCode (at0 0x8082B856).pcWord (at0 0x8082B856).pc (at0 0x8082B856).flags.t = .run (.w32 0x00413856) 0x9F000000 false ∧
    decode (.w32 0x00413856) = .ok (.mvcond 4 2 .cnz) ∧
    exec (.mvcond 4 2 .cnz) (at0 0x8082B856) = .refused .reservedMoveCondition := by
  refine ⟨by unfold Fetches; decide, by decide, by decide, by decide, by rfl⟩

/-- Reset with the pc elsewhere. -/
def atPc (pc : Word) : State := { State.reset with pc := pc }
/-- Reset in debug mode with the pc elsewhere. -/
def debugAt (pc : Word) : State := { atPc pc with dreg := { State.reset.dreg with dm := true } }
/-- Reset in user mode with the pc elsewhere. -/
def userAt (pc : Word) : State := { atPc pc with psr := psrOfWord 2 }
/-- Reset with one address range answering bus errors to one kind of access. -/
def busState (k : Access) (s : State) : State := { s with cfg := { s.cfg with busErrors := [⟨⟨0x2000, 0x100⟩, k⟩] } }

theorem witness_FetchErrors :
    (Fetches (atPc 0x101) ∧ (atPc 0x101).pc.getLsbD 0 = true) ∧
    (Fetches (userAt 0x80000000) ∧ (userAt 0x80000000).forbidden (userAt 0x80000000).pc = true) ∧
    (Fetches (busState .fetch (atPc 0x2000)) ∧ (busState .fetch (atPc 0x2000)).forbidden 0x2000 = false ∧
      (busState .fetch (atPc 0x2000)).busError .fetch 0x2000 = true) ∧
    (Fetches (at0 0x80000000) ∧ (at0 0x80000000).checkFetch = .ok ∧
      selectCode (at0 0x80000000).pcWord (at0 0x80000000).pc (at0 0x80000000).flags.t = .parity) ∧
    (∀ n ∈ [0xFFFF0004, 0xFFFFFFFE, 0xFFFF2000, 0xFFF00000, 0xFFFEFFFE, 0xFF000000, 0xFFEFFFFE],
      Fetches (debugAt (ad n)) ∧ (ad n).toNat = n ∧ (ad n).getLsbD 0 = false ∧ (debugAt (ad n)).busError .fetch (ad n) = false) := by
  unfold Fetches
  decide

/-- The lower half of a PCE word with T = 1. -/
def skipState : State :=
  { (({ State.reset with pc := 0x108 } : State).placeWord 0x5601D600).setFlags ⟨true, false, false, false, false⟩ with pc := 0x10A }

theorem witness_FetchErrors_skip :
    Fetches skipState ∧ skipState.checkFetch = .ok ∧ selectCode skipState.pcWord skipState.pc skipState.flags.t = .skip ∧
    skipState.busErrPending = false ∧ ¬ SwiRequested skipState := by
  refine ⟨by unfold Fetches; decide, by decide, by decide, by decide, ?_⟩
  rintro ⟨h, -⟩
  exact absurd h (by decide)

/-- The same with a bus error pending, or a software interrupt requested. -/
def skipPending (bus : Bool) : State :=
  { skipState with busErrPending := bus, psr := psrOfWord 1, ecr := { State.reset.ecr with softIp := 1 } }

theorem witness_FetchErrors_skip_taken :
    (∀ bus, Fetches (skipPending bus) ∧ (skipPending bus).checkFetch = .ok ∧
      selectCode (skipPending bus).pcWord (skipPending bus).pc (skipPending bus).flags.t = .skip ∧
      (skipPending bus).dreg.dm = false ∧ (skipPending bus).busErrPending = bus) ∧ SwiRequested (skipPending false) := by
  refine ⟨by unfold Fetches; decide, by decide, 0, by decide⟩

theorem witness_FetchErrors_drseg :
    (∀ v, ¬ DrsegHolds (debugAt 0xFFFF0004) 0xFFFF0004 v) ∧ (∀ v, ¬ DrsegHolds (debugAt 0xFFFFFFFE) 0xFFFFFFFC v) ∧
    DrsegHolds (debugAt 0xFFFF2000) 0xFFFF2000 0 ∧ DrsegHolds (debugAt 0xFFFF0000) 0xFFFF0000 0 :=
  ⟨State.not_drsegHolds (off := 4) (by decide) (by decide), State.not_drsegHolds (off := 0xFFFC) (by decide) (by decide),
    .inr (.inr (.inr (.inl ⟨0, InstrBreak.reset, by decide, by decide, .inl ⟨by decide, by decide⟩⟩))), .inl (by decide)⟩

theorem witness_UndefinedOpcodes :
    (fOp (9 <<< 25)).toNat ∈ [9, 10, 11, 14, 15, 25, 26, 27, 29, 30, 31] ∧
    (fOp (14 <<< 1) = 0#5 ∧ (fFunc6 (14 <<< 1)).toNat ∈ [14, 25, 38, 39, 50, 54, 57]) ∧
    (fOp (1 <<< 25 ||| 7 <<< 17) = 1#5 ∧ (fI3 (1 <<< 25 ||| 7 <<< 17)).toNat ∈ [1, 3, 7]) ∧
    (fOp (5 <<< 25 ||| 1 <<< 17) = 5#5 ∧ (fI3 (5 <<< 25 ||| 1 <<< 17)).toNat ∈ [1, 2, 3, 7]) ∧
    (fOp 0x0C0000E4 = 6#5 ∧ fCp 0x0C0000E4 = 0#2 ∧ (0x0C0000E4#30).getLsbD 2 = true ∧ fCrOp 0x0C0000E4 = 7#3) ∧
    (fOp 0x0C000020 = 6#5 ∧ fCp 0x0C000020 = 0#2 ∧ (0x0C000020#30).getLsbD 2 = false ∧ fCrOp 0x0C000020 ≠ 0#3) ∧
    (fOp 0x0C00000D = 6#5 ∧ fCp 0x0C00000D ≠ 0#2 ∧ fLow3 0x0C00000D = 5#3) ∧ hOp 0x1000 = 1#3 ∧
    (hOp 0x0006 = 0#3 ∧ (hFunc4 0x0006).toNat ∈ [6, 7, 13, 14, 15]) ∧
    (hOp 0x7006 = 7#3 ∧ (hFunc3 0x7006).toNat ∈ [2, 6]) := by decide

theorem witness_ResetValues :
    (({ State.reset with sleeping := true, inputs := [{ Pins.idle with reset := true }] } : State).pins.reset = true) := by decide

theorem witness_WfStep : State.reset.Wf = true ∧ stepped State.reset (fun t => t.pc) = some 0x9F000002 := by decide

theorem witness_WfStep_cache : cacheState.Wf = true ∧ cacheState.dcache.lines ≠ [] ∧ stepped cacheState (fun t => t.pc) = some 0x202 := by
  decide

/-- The write buffer in use: the invariant holds, and each clause of a store and of a load is met. -/
theorem witness_write_buffer :
    (bufferState 4).Wf = true ∧ (bufferState 4).wbuf.length = 4 ∧ (bufferState 3).wbuf.length < 4 ∧
    (bufferState 4).ccr.wb = true ∧ cacheState.ccr.wb = false ∧
    (bufferState 4).memoryAddrs ((bufferState 4).offsetAddr 4 0) 4 ≠ [] ∧
    ({ bufferState 4 with ccr := { State.reset.ccr with wb := true, wback := true } } : State).memoryAddrs 0x100 4 = [] ∧
    (bufferState 4).ccr.rdBpDis = false ∧
    ({ bufferState 4 with ccr := { State.reset.ccr with wb := true, rdBpDis := true } } : State).Wf = true := by
  decide

theorem witness_write_buffer_ready :
    StoreReady (bufferState 4) (.at ((bufferState 4).offsetAddr 4 0) 4) ((bufferState 4).r 8) ∧
    LoadReady (bufferState 4) (.at ((bufferState 4).offsetAddr 4 0) 4) ∧ (bufferState 4).mem.wf = true := by
  unfold StoreReady LoadReady
  decide

/-- Single stepping. -/
def stepState : State := { State.reset with dreg := { State.reset.dreg with ssEn := true }, stepped := true }

theorem witness_SingleStep :
    Awake stepState ∧ stepState.dreg.dm = false ∧ stepState.dreg.ssEn = true ∧ stepState.stepped = true ∧
    stepped stepState (fun t => t.stepped) = some false ∧
    stepped { stepState with stepped := false } (fun t => t.stepped) = some true := by
  refine ⟨by unfold Awake; decide, by decide, by decide, by decide, by decide, by decide⟩

theorem witness_ConditionsAfterCompare :
    (∃ tc ra rb, Instr.cmp .teq 2 3 = .cmp tc ra rb ∧ (5#32) = (regs [(2, 5)]).r ra ∧ (0#32) = (regs [(2, 5)]).r rb) ∧
    (∃ tc ra, Instr.cmpz .tmi 2 = .cmpz tc ra ∧ (5#32) = (regs [(2, 5)]).r ra ∧ (0#32) = 0#32) ∧
    (∃ rd imm, Instr.cmpi 2 0xFFFF = .cmpi rd imm ∧ (5#32) = (regs [(2, 5)]).r rd ∧ 0xFFFFFFFF#32 = imm.signExtend 32) ∧
    (∃ rd ra, Instr.cmp16 2 3 = .cmp16 rd ra ∧ (5#32) = (regs [(2, 5)]).r (g0 rd) ∧ (0#32) = (regs [(2, 5)]).r (g0 ra)) :=
  ⟨⟨.teq, 2, 3, by decide⟩, ⟨.tmi, 2, by decide⟩, ⟨2, 0xFFFF, by decide⟩, ⟨2, 3, by decide⟩⟩

theorem witness_Shifts :
    (0 = ((regs [(3, 0x20)]).r 3).toNat % 32) ∧ (31 = ((regs [(3, 0xFFFFFFFF)]).r (g0 3)).toNat % 32) := by decide

theorem witness_Rotates : (0 = ((regs [(3, 0x20)]).r 3).toNat % 32) ∧ (31 = ((regs [(3, 0x1F)]).r 3).toNat % 32) := by decide

theorem witness_ConditionalMove :
    Cond.eq ≠ .cnz ∧ (State.reset.condHolds .ne = true) ∧ (State.reset.condHolds .eq = false) ∧ Cond.cnz = .cnz := by decide

theorem witness_BranchInstructions :
    State.reset.condHolds .al = true ∧ State.reset.condHolds .cnz = false ∧
    ({ State.reset with cnt := 1 } : State).condHolds .cnz = true := by decide

/-- r2 = 0x1004, r0 the stack pointer, r4 data; canonical memory. -/
def memState : State := withBytes 0x1000 [1, 2, 3, 4, 5, 6, 7, 8] (regs [(0, 0x2000), (2, 0x1004), (4, 0x12345678)])

theorem witness_Loads :
    LoadReady memState (.at (memState.offsetAddr 2 0x7FFC) 4) ∧ LoadReady memState (.at (memState.offsetAddr 2 2) 2) ∧
    LoadReady memState (.at (memState.offsetAddr 2 1) 1) ∧ LoadReady memState (.at (memState.r (g0 2)) 4) ∧
    LoadReady memState (.at (memState.r (g0 2)) 2) ∧ LoadReady memState (.at (memState.r (g0 2)) 1) ∧
    LoadReady memState (.at (memState.bpAddr 31 2) 4) ∧ LoadReady memState (.at (memState.bpAddr 31 1) 2) ∧
    LoadReady memState (.at (memState.bpAddr 31 0) 1) := by
  unfold LoadReady
  decide

theorem witness_IndexedLoads :
    LoadReady memState (.at (memState.indexedBase 2 0xFFC) 4) ∧ LoadReady memState (.at (memState.indexedBase 2 0xFFE) 2) ∧
    LoadReady memState (.at (memState.indexedBase 2 0xFFF) 1) ∧ LoadReady memState (.at (memState.r 2) 4) ∧
    LoadReady memState (.at (memState.r 2) 2) ∧ LoadReady memState (.at (memState.r 2) 1) ∧ (4#5 ≠ 2#5) := by
  unfold LoadReady
  decide

theorem witness_Stores :
    StoreReady memState (.at (memState.offsetAddr 2 0x7FFC) 4) (memState.r 4) ∧
    StoreReady memState (.at (memState.offsetAddr 2 2) 2) (memState.r 4) ∧
    StoreReady memState (.at (memState.offsetAddr 2 1) 1) (memState.r 4) ∧
    StoreReady memState (.at (memState.r (g0 2)) 4) (memState.r (g0 4)) ∧
    StoreReady memState (.at (memState.r (g0 2)) 2) (memState.r (g0 4)) ∧
    StoreReady memState (.at (memState.r (g0 2)) 1) (memState.r (g0 4)) ∧
    StoreReady memState (.at (memState.bpAddr 31 2) 4) (memState.r (g0 4)) ∧
    StoreReady memState (.at (memState.bpAddr 31 1) 2) (memState.r (g0 4)) ∧
    StoreReady memState (.at (memState.bpAddr 31 0) 1) (memState.r (g0 4)) ∧ memState.mem.wf = true := by
  unfold StoreReady
  decide

theorem witness_IndexedStores :
    StoreReady memState (.at (memState.indexedBase 2 0xFFC) 4) (memState.r 4) ∧
    StoreReady memState (.at (memState.indexedBase 2 0xFFE) 2) (memState.r 4) ∧
    StoreReady memState (.at (memState.indexedBase 2 0xFFF) 1) (memState.r 4) ∧
    StoreReady memState (.at (memState.r 2) 4) (memState.r 4) ∧ StoreReady memState (.at (memState.r 2) 2) (memState.r 4) ∧
    StoreReady memState (.at (memState.r 2) 1) (memState.r 4) ∧ memState.mem.wf = true := by
  unfold StoreReady
  decide

theorem witness_PushPop :
    StoreReady memState (.at (memState.pushAddr 0) 4) (memState.r 16) ∧ LoadReady memState (.at (memState.pushAddr 0) 4) ∧
    LoadReady memState (.at (memState.r (gBase 0)) 4) ∧ memState.mem.wf = true ∧ (18#5 ≠ gBase 0) := by
  unfold StoreReady LoadReady
  decide

/-- The base of an unaligned word, in either byte order. -/
def unaligned (be : Bool) (a : Word) : State :=
  { withBytes 0x1000 [1, 2, 3, 4, 5, 6, 7, 8] (regs [(2, a), (4, 0xAABBCCDD)]) with cfg := { Config.default with bigEndian := be } }

theorem witness_LoadCombine :
    ∀ p ∈ [(true, 0x1000#32, 0), (true, 0x1003#32, 3), (false, 0x1003#32, 0), (false, 0x1000#32, 3)],
      (p.2.2 = if (unaligned p.1 p.2.1).cfg.bigEndian then ((unaligned p.1 p.2.1).r 2).toNat % 4
        else 3 - ((unaligned p.1 p.2.1).r 2).toNat % 4) ∧ 0x1000#32 = (unaligned p.1 p.2.1).r 2 &&& 0xFFFFFFFC#32 ∧
      LoadReady (unaligned p.1 p.2.1) (.at 0x1000 4) := by
  unfold LoadReady
  decide

theorem witness_StoreCombine :
    ∀ p ∈ [(true, 0x1000#32, 0), (true, 0x1003#32, 3), (false, 0x1003#32, 0), (false, 0x1000#32, 3)],
      (p.2.2 = if (unaligned p.1 p.2.1).cfg.bigEndian then ((unaligned p.1 p.2.1).r 2).toNat % 4
        else 3 - ((unaligned p.1 p.2.1).r 2).toNat % 4) ∧ 0x1000#32 = (unaligned p.1 p.2.1).r 2 &&& 0xFFFFFFFC#32 ∧
      (unaligned p.1 p.2.1).mem.wf = true ∧
      StoreReady (unaligned p.1 p.2.1) ((unaligned p.1 p.2.1).scbAccess 2) ((unaligned p.1 p.2.1).r 4 >>> (8 * p.2.2)) ∧
      StoreReady (unaligned p.1 p.2.1) (.at 0x1000 4)
        (((unaligned p.1 p.2.1).scr &&& ~~~(0xFFFFFFFF#32 >>> (8 * p.2.2))) ||| ((unaligned p.1 p.2.1).r 4 >>> (8 * p.2.2))) ∧
      (p.2.2 ≠ 0 →
        StoreReady (unaligned p.1 p.2.1) ((unaligned p.1 p.2.1).sceAccess 2) ((unaligned p.1 p.2.1).scr >>> (32 - 8 * p.2.2))) := by
  unfold StoreReady
  decide

theorem witness_UnalignedLoad :
    ∀ n ∈ [0x1000, 0x1003],
      (unaligned true (ad n)).Wf = true ∧ (unaligned true (ad n)).cfg.bigEndian = true ∧ (4#5 ≠ 2#5) ∧
      LoadReady (unaligned true (ad n)) (.at ((unaligned true (ad n)).combineWord 2) 4) ∧
      LoadReady (unaligned true (ad n)) (.at ((unaligned true (ad n)).combineWord 2 + 4#32) 4) := by
  unfold LoadReady
  decide

theorem witness_UnalignedStore :
    ∀ p ∈ [(0x1000#32, 0), (0x1003#32, 3)],
      (unaligned true p.1).mem.wf = true ∧ (unaligned true p.1).cfg.bigEndian = true ∧ (4#5 ≠ 2#5) ∧
      p.2 = ((unaligned true p.1).r 2).toNat % 4 ∧
      StoreReady (unaligned true p.1) ((unaligned true p.1).scbAccess 2) ((unaligned true p.1).r 4 >>> (8 * p.2)) ∧
      StoreReady (unaligned true p.1)
        ⟨(unaligned true p.1).combineWord 2 + 4#32, p.2, (unaligned true p.1).combineWord 2 + 4#32⟩
        ((unaligned true p.1).r 4 &&& ~~~(0xFFFFFFFF#32 <<< (8 * p.2))) := by
  unfold StoreReady
  decide

theorem witness_AtomicPair :
    LoadReady memState (.at (memState.r 2) 4) ∧
    (({ memState with atbit := true } : State).atbit = true ∧
      StoreReady { memState with atbit := true } (.at (memState.r 2) 4) (memState.r 4) ∧ memState.mem.wf = true) ∧
    (memState.atbit = false ∧ (memState.r 2).toNat % 4 = 0 ∧ memState.forbidden (memState.r 2) = false) ∧
    ((unaligned true 0x1001).atbit = false ∧ ((unaligned true 0x1001).r 2).toNat % 4 ≠ 0) ∧
    ((unaligned true 0xFF000000).atbit = false ∧ (unaligned true 0xFF000000).forbidden ((unaligned true 0xFF000000).r 2) = true) := by
  unfold LoadReady StoreReady
  decide

/-- An instruction of each kind makes the access its statement speaks of, unwatched and with no coprocessor. -/
theorem witness_Misaligned :
    ∀ p ∈ [(Instr.lh 4 2 0, 0x1001#32), (.lw 4 2 0, 0x1002), (.sh 4 2 0, 0x1003), (.sw 4 2 0, 0x1001), (.lw16 4 2, 0x1003)],
      ∃ d, (unaligned true p.2).dataAccess p.1 = some d ∧ d.cop = none ∧ d.unwatched (unaligned true p.2) ∧
        (d.acc.bytes = 2 ∧ d.acc.addr.toNat % 2 = 1 ∨ d.acc.bytes = 4 ∧ d.acc.addr.toNat % 4 ≠ 0) := by
  intro p hp
  simp only [List.mem_cons, List.not_mem_nil, or_false] at hp
  unfold DataAccess.unwatched
  rcases hp with rfl | rfl | rfl | rfl | rfl <;> exact ⟨_, rfl, rfl, by decide, by decide⟩

theorem witness_ForbiddenAccess :
    ((userAt 0x100).dataAccess (.lb 4 2 0) = some (.ofLoad 0 1)) ∧
    (∀ n ∈ [0x80000000, 0xFFFFFFFF], ({ unaligned true (ad n) with psr := psrOfWord 2 } : State).dreg.dm = false ∧
      ({ unaligned true (ad n) with psr := psrOfWord 2 } : State).psr.umc = true ∧
      ({ unaligned true (ad n) with psr := psrOfWord 2 } : State).kernelSpace (ad n) = true ∧
      ({ unaligned true (ad n) with psr := psrOfWord 2 } : State).dataAccess (.lb 4 2 0) = some (.ofLoad (ad n) 1) ∧
      (DataAccess.ofLoad (ad n) 1).unwatched { unaligned true (ad n) with psr := psrOfWord 2 }) ∧
    (∀ n ∈ [0xFF000000, 0xFFFFFFFF], (unaligned true (ad n)).dreg.dm = false ∧ 0xFF000000 ≤ (ad n).toNat ∧
      (unaligned true (ad n)).dataAccess (.sb 4 2 0) = some (.ofStore (ad n) 1 0xAABBCCDD) ∧
      (DataAccess.ofStore (ad n) 1 0xAABBCCDD).unwatched (unaligned true (ad n))) ∧
    (∀ n ∈ [0xFFFF0000, 0xFFFFFFFF, 0xFFF00000, 0xFFFEFFFF, 0xFF000000, 0xFFEFFFFF],
      (debugReg (ad n)).dreg.dm = true ∧ (debugReg (ad n)).dataAccess (.lb 4 2 0) = some (.ofLoad (ad n) 1) ∧
      (debugReg (ad n)).addrError .load (ad n) 1 = none ∧ (debugReg (ad n)).busError .load (ad n) = false) := by
  unfold DataAccess.unwatched
  decide

theorem witness_BusErrors :
    ((busState .store (unaligned true 0x20FC)).storeRegs (.swPost 4 2 8) = [(2, 0x2104)] ∧
      (busState .store (unaligned true 0x20FC)).dataAccess (.swPost 4 2 8) = some (.ofStore 0x20FC 4 0xAABBCCDD)) ∧
    ((busState .load (unaligned true 0x2000)).dataAccess (.lw 4 2 0) = some (.ofLoad 0x2000 4) ∧
      (DataAccess.ofLoad 0x2000 4).unwatched (busState .load (unaligned true 0x2000)) ∧
      (busState .load (unaligned true 0x2000)).addrError .load 0x2000 4 = none ∧
      (busState .load (unaligned true 0x2000)).busError .load 0x2000 = true) ∧
    (∀ wb, ({ busState .store (unaligned true 0x20FC) with ccr := { State.reset.ccr with wb := wb } } : State).dataAccess (.sw 4 2 0) =
        some (.ofStore 0x20FC 4 0xAABBCCDD) ∧
      (DataAccess.ofStore 0x20FC 4 0xAABBCCDD).unwatched
        { busState .store (unaligned true 0x20FC) with ccr := { State.reset.ccr with wb := wb } } ∧
      (busState .store (unaligned true 0x20FC)).addrError .store 0x20FC 4 = none ∧
      (busState .store (unaligned true 0x20FC)).busError .store 0x20FC = true) := by
  unfold DataAccess.unwatched
  decide

/-- A breakpoint on the word at 0x1000: on its address, or with `blm` = 0 on the value 0x01020304 too. -/
def watch (blm : BitVec 4) : DataBreak := { DataBreak.reset with addr := 0x1000, value := 0x01020304, blm := blm, be := true }

theorem witness_DataBreakpoints :
    (∀ blm ∈ [0xF#4, 0#4], ({ unaligned true 0x1000 with dbrk := [watch blm] } : State).dataAccess (.lw 4 2 0) = some (.ofLoad 0x1000 4) ∧
      ({ unaligned true 0x1000 with dbrk := [watch blm] } : State).dataAccess (.sw 4 2 0) = some (.ofStore 0x1000 4 0xAABBCCDD) ∧
      ({ unaligned true 0x1000 with dbrk := [watch blm] } : State).dreg.dm = false ∧ (watch blm).be = true ∧
      (watch blm).noLb = false ∧ (watch blm).noSb = false) ∧
    BreakAddr (watch 0xF) 0 ((Acc.at 0x1000 4).view true []) ∧ BreakNoValue (watch 0xF) ((Acc.at 0x1000 4).view true []) ∧
    BreakAddr (watch 0xF) 0 ((Acc.at 0x1000 4).view true (valueBytes true 0xAABBCCDD 4)) ∧
    BreakNoValue (watch 0xF) ((Acc.at 0x1000 4).view true (valueBytes true 0xAABBCCDD 4)) ∧
    BreakAddr (watch 0) 0 ((Acc.at 0x1000 4).view true
      (valueBytes true (({ unaligned true 0x1000 with dbrk := [watch 0] } : State).readMem 0x1000 4) 4)) ∧
    (¬ BreakNoValue (watch 0) ((Acc.at 0x1000 4).view true
      (valueBytes true (({ unaligned true 0x1000 with dbrk := [watch 0] } : State).readMem 0x1000 4) 4))) ∧
    BreakValue (watch 0) ((Acc.at 0x1000 4).view true
      (valueBytes true (({ unaligned true 0x1000 with dbrk := [watch 0] } : State).readMem 0x1000 4) 4)) ∧
    LoadReady { unaligned true 0x1000 with dbrk := [watch 0] } (.at 0x1000 4) := by
  unfold BreakAddr BreakNoValue BreakValue LoadReady
  decide

theorem witness_Divide :
    ((regs [(2, 7), (3, 2)]).r 3 ≠ 0#32 ∧
      ¬ ((regs [(2, 7), (3, 2)]).r 2 = 0x80000000#32 ∧ (regs [(2, 7), (3, 2)]).r 3 = 0xFFFFFFFF#32)) ∧
    ((regs [(2, 0x80000000), (3, 0xFFFFFFFF)]).r 2 = 0x80000000#32 ∧
      (regs [(2, 0x80000000), (3, 0xFFFFFFFF)]).r 3 = 0xFFFFFFFF#32) ∧
    (regs [(2, 7)]).r 3 = 0#32 := by decide

/-- An extension that implements func5 = 2, with or without a report. -/
def ceState (report : Bool) : State :=
  { State.reset with cfg := { Config.default with ceFuncs := [2] }, inputs := [{ Pins.idle with ceReport := report }] }

/-- R440: both USD fields name destinations, and CEH is kept -/
theorem test_putCe :
    (State.reset.putCe 4 5 ⟨some 1, some 2, none, some 3⟩).r 4 = 1 ∧ (State.reset.putCe 4 5 ⟨some 1, some 2, none, some 3⟩).r 5 = 2 ∧
    (State.reset.putCe 4 5 ⟨some 1, some 2, none, some 3⟩).cel = 3 := by decide

theorem witness_CustomEngine :
    (ceState false).cfg.ceFuncs.contains 2#5 = true ∧ (ceState false).pins.ceReport = false ∧
    (ceState true).cfg.ceFuncs.contains 2#5 = true ∧ (ceState true).pins.ceReport = true := by decide

/-- A coprocessor that reports an exception. -/
def copReports : State := { copState with inputs := [{ Pins.idle with copReport := 7 }] }

theorem witness_CopMoves :
    (∀ z ∈ [CopNum.cp1, .cp2, .cp3], CopReady copState z) ∧
    (∀ z ∈ [CopNum.cp1, .cp2, .cp3], copBit z copReports.psr.cu = true ∧ copBit z copReports.cfg.copPresent = true ∧
      copBit z copReports.pins.copReport = true) := by
  unfold CopReady
  decide

theorem witness_CopMemory :
    (∀ z ∈ [CopNum.cp1, .cp2, .cp3], CopReady copState z ∧ LoadReady copState (.at (copState.copAddr 4 0x12) 4) ∧
      StoreReady copState (.at (copState.copAddr 4 0x12) 4) (copState.copData z 8) ∧ copState.mem.wf = true) ∧
    (∀ z ∈ [CopNum.cp1, .cp2, .cp3], copBit z copReports.psr.cu = true ∧ copBit z copReports.cfg.copPresent = true ∧
      copBit z copReports.pins.copReport = true ∧ copReports.loadBreak (.at (copReports.copAddr 4 0x12) 4) = none ∧
      copReports.addrError .load (copReports.copAddr 4 0x12) 4 = none ∧
      copReports.storeBreak (.at (copReports.copAddr 4 0x12) 4) (copReports.copData z 8) = none ∧
      copReports.addrError .store (copReports.copAddr 4 0x12) 4 = none) := by
  unfold CopReady LoadReady StoreReady
  decide

theorem witness_BreakpointRegisters :
    (∀ n ∈ [0xFFFF0000, 0xFFFF1000, 0xFFFF3000, 0xFFFF2000, 0xFFFF210C, 0xFFFF4000, 0xFFFF4110, 0xFFFF0004, 0xFFFF1004,
        0xFFFF2010, 0xFFFF2200, 0xFFFF220C, 0xFFFF4F10, 0xFFFF5000, 0xFFFFFFFC],
      (debugReg (ad n)).dreg.dm = true ∧ (ad n) = (debugReg (ad n)).offsetAddr 2 0 ∧ (ad n) = (debugReg (ad n)).r 2 ∧
      (debugReg (ad n)).busError .load (ad n) = false ∧ (debugReg (ad n)).busError .store (ad n) = false ∧
      (debugReg (ad n)).dataAccess (.lw 4 2 0) = some (.ofLoad (ad n) 4) ∧ (ad n).toNat % 4 = 0 ∧ 0xFFFF0000 ≤ (ad n).toNat) := by
  decide

theorem witness_BreakpointRegisters_listed :
    DrsegHolds (debugReg 0xFFFF1000) 0xFFFF1000 0x02000000 ∧ DrsegHolds (debugReg 0xFFFF210C) 0xFFFF210C 0 ∧
    DrsegHolds (debugReg 0xFFFF4110) 0xFFFF4110 0 ∧ DrsegStored (debugReg 0xFFFF0000) 0xFFFF0000 0 (debugReg 0xFFFF0000) ∧
    (∃ t, DrsegStored (debugReg 0xFFFF210C) 0xFFFF210C 0 t) ∧ (∃ t, DrsegStored (debugReg 0xFFFF4110) 0xFFFF4110 0 t) :=
  ⟨.inr (.inl (by decide)),
    .inr (.inr (.inr (.inl ⟨1, InstrBreak.reset, by decide, by decide, .inr (.inr (.inr ⟨by decide, by decide⟩))⟩))),
    .inr (.inr (.inr (.inr ⟨1, DataBreak.reset, by decide, by decide, .inr (.inr (.inr (.inr ⟨by decide, by decide⟩)))⟩))),
    .inl ⟨.inl rfl, rfl⟩,
    ⟨_, .inr (.inl ⟨1, fun b => { b with asidUse := false, be := false }, by decide, by decide, rfl,
      .inr (.inr (.inr ⟨by decide, fun _ => rfl⟩))⟩)⟩,
    ⟨_, .inr (.inr ⟨1, fun b => { b with value := 0 }, by decide, by decide, rfl,
      .inr (.inr (.inr (.inr ⟨by decide, fun _ => rfl⟩)))⟩)⟩⟩

/-- Debug mode with a base register, a coprocessor and ATbit. -/
def debugCop (a : Word) : State :=
  { debugReg a with
    atbit := true
    psr := { State.reset.psr with cu := 7 }
    cfg := { Config.default with copPresent := 7 } }

theorem witness_BreakpointRegisters_forms :
    (debugCop 0xFFFF210C).dreg.dm = true ∧
    (∀ i ∈ [Instr.lw 4 2 0, .lwPre 4 2 0, .lwPost 4 2 8, .alw 4 2, .lcb 2, .lcw 4 2, .lw16 4 2, .pop16 4 2],
      (debugCop 0xFFFF210C).dataAccess i = some (.ofLoad 0xFFFF210C 4)) ∧
    (debugCop 0xFFFF210E).dataAccess (.lce 4 2) = some (.ofLoad 0xFFFF210C 4) ∧
    (∀ i ∈ [Instr.sw 4 2 0, .swPre 4 2 0, .swPost 4 2 8, .asw 4 2, .scb 4 2, .scw 4 2, .sw16 4 2],
      (debugCop 0xFFFF210C).dataAccess i = some (.ofStore 0xFFFF210C 4 0)) ∧
    (debugCop 0xFFFF2110).dataAccess (.push16 4 2) = some (.ofStore 0xFFFF210C 4 0) ∧
    (debugCop 0xFFFF210C).dataAccess (.ldc1 2 8 0) = some ⟨.load, .at 0xFFFF210C 4, 0, some .cp1⟩ ∧
    (debugCop 0xFFFF210C).dataAccess (.stc1 2 8 0) = some ⟨.store, .at 0xFFFF210C 4, 0, some .cp1⟩ ∧
    CopReady (debugCop 0xFFFF210C) .cp1 := by
  unfold CopReady
  decide

theorem witness_BreakpointRegisters_stops :
    (∀ v, ¬ DrsegHolds (debugReg 0xFFFF1004) 0xFFFF1004 v) ∧ (∀ v, ¬ DrsegHolds (debugReg 0xFFFF2010) 0xFFFF2010 v) ∧
    (∀ v, ¬ DrsegHolds (debugReg 0xFFFF220C) 0xFFFF220C v) ∧ (∀ v, ¬ DrsegHolds (debugReg 0xFFFF4F10) 0xFFFF4F10 v) ∧
    (∀ v, ¬ DrsegHolds (debugReg 0xFFFF5000) 0xFFFF5000 v) :=
  ⟨State.not_drsegHolds (off := 0x1004) (by decide) (by decide), State.not_drsegHolds (off := 0x2010) (by decide) (by decide),
    State.not_drsegHolds (off := 0x220C) (by decide) (by decide), State.not_drsegHolds (off := 0x4F10) (by decide) (by decide),
    State.not_drsegHolds (off := 0x5000) (by decide) (by decide)⟩

theorem witness_SyscallTrap :
    State.reset.cfg.trapPrivileged = false ∧ State.reset.condHolds .al = true ∧ State.reset.condHolds .eq = false ∧
    (({ userAt 0x100 with cfg := { Config.default with trapPrivileged := true } } : State).cfg.trapPrivileged = true ∧
      ({ userAt 0x100 with cfg := { Config.default with trapPrivileged := true } } : State).crOk = false) := by decide

theorem witness_NormalEntry :
    syscallState.dreg.dm = false ∧ ((takeException (.interrupt 63) .w32 { syscallState with sleeping := true }).pc = 0x9F0002FC) := by
  decide

theorem witness_DebugEntryReentry : State.reset.dreg.dm = false ∧ (debugAt 0x100).dreg.dm = true := by decide

theorem witness_DebugVector :
    State.reset.cfg.probeEn = false ∧
    ({ State.reset with cfg := { Config.default with probeEn := true } } : State).cfg.probeEn = true ∧
    ({ State.reset with cfg := { Config.default with probeEn := true } } : State).dreg.iceDis = false ∧
    ({ State.reset with cfg := { Config.default with probeEn := true }, dreg := { State.reset.dreg with iceDis := true } } :
      State).dreg.iceDis = true := by decide

theorem witness_LeavingDebugMode :
    (debugAt 0x100).crOk = true ∧ ((debugAt 0x100).placeWord 0x980080A4).dreg.dm = true ∧
    ((debugAt 0x100).placeWord 0x980080A4).pins.reset = false ∧
    stepped ((debugAt 0x100).placeWord 0x980080A4) (fun t => t.dreg.dm) = some false := by decide

theorem witness_ReturnFromException : State.reset.crOk = true ∧ State.reset.dreg.dm = false := by decide

theorem witness_ControlRegisters :
    State.reset.crOk = true ∧
    (∀ n ∈ [0#5, 1#5, 2#5, 3#5, 4#5, 5#5, 6#5, 15#5, 16#5, 29#5, 30#5, 31#5], (State.reset.readCr n).isSome = true) ∧
    (({ userAt 0x100 with psr := { psrOfWord 2 with cra := true } } : State).crOk = true) := by decide

theorem witness_Unusable :
    (CrInstr .rte ∧ CrInstr (.mfcr 4 0) ∧ CrInstr .stlb ∧ (userAt 0x800).dreg.dm = false ∧ (userAt 0x800).psr.umc = true ∧
      (userAt 0x800).psr.cra = false) ∧
    (CopInstr .cp2 (.mtc2 4 8) ∧ CopInstr .cp3 (.ldc3 4 8 0) ∧ CopInstr .cp1 (.cop1 1 2 3 4) ∧
      copBit .cp2 State.reset.psr.cu = false ∧ copBit .cp3 (debugAt 0x100).psr.cu = false) ∧
    (State.reset.psr.umc = false ∧ State.reset.raised = false ∧ ranInstr .sleep State.reset (fun t => t.sleeping) = some true) := by
  refine ⟨⟨.inr (.inl rfl), .inl ⟨4, 0, .inl rfl⟩, .inr (.inr (.inr (.inr (.inl rfl)))), by decide⟩,
    ⟨.inl ⟨4, 8, .inl rfl⟩, .inr (.inl ⟨4, 8, 0, .inl rfl⟩), .inr (.inr ⟨1, 2, 3, 4, rfl⟩), by decide⟩, by decide⟩

theorem witness_ReservedInstructions :
    (TlbSlot .mtrtlb ∧ State.reset.crOk = true) ∧
    (CopInstr .cp1 (.mfc1 4 8) ∧ copBit .cp1 ({ State.reset with psr := { State.reset.psr with cu := 7 } } : State).psr.cu = true ∧
      copBit .cp1 ({ State.reset with psr := { State.reset.psr with cu := 7 } } : State).cfg.copPresent = false) ∧
    (3 ≤ (3#5).toNat ∧ 3 ≤ (31#5).toNat) ∧
    ((7#5).toNat ∉ [0, 1, 2, 3, 4, 5, 6, 15, 16, 18, 29, 30, 31] ∧ (28#5).toNat ∉ [0, 1, 2, 3, 4, 5, 6, 15, 16, 18, 29, 30, 31]) ∧
    ((5#5).toNat ∈ [0x05, 0x06, 0x07, 0x0F, 0x12, 0x13, 0x14, 0x15, 0x16, 0x17, 0x19]) ∧ (2#5 ∉ State.reset.cfg.ceFuncs) := by
  refine ⟨⟨.inr (.inr (.inr rfl)), by decide⟩, ⟨.inl ⟨4, 8, .inr (.inl rfl)⟩, by decide⟩, by decide⟩

theorem witness_SleepAndWake :
    State.reset.crOk = true ∧
    (({ State.reset with sleeping := true, psr := { psrOfWord 1 with im := 0x14 }, inputs := [irqPins 5] } : State).sleeping = true ∧
      ({ State.reset with sleeping := true, psr := { psrOfWord 1 with im := 0x14 }, inputs := [irqPins 5] } : State).pins.reset = false ∧
      ¬ (0x14#8).toNat / 4 < (5#6).toNat) ∧
    (({ debugAt 0x100 with sleeping := true } : State).sleeping = true ∧ (debugAt 0x100).pins.reset = false ∧
      (debugAt 0x100).dreg.dm = true) := by decide

/-- Cacheable memory in which loads of 0x2000..0x20FF have bus errors, r4 = 0x2000. -/
def cacheBusState : State :=
  { cacheState with
    gpr := (regs [(4, 0x2000)]).gpr
    cfg := { cacheState.cfg with busErrors := [⟨⟨0x2000, 0x100⟩, .load⟩] } }

/-- 20_memory.md R127: a prefetch with lock asserts the MRU bit of its set, 10 and 18 deassert it, and the next line that is
filled in that set then takes way 0 (log 23). -/
theorem test_mru_after_invalidate :
    (Cache.empty.prefetchLock State.reset.mem ⟨16, 128⟩ 0x100).1.mru = [16] ∧
    (cacheState.cacheOp 0x18 0x100).dcache.mru = [] ∧
    ((Cache.empty.prefetch State.reset.mem ⟨16, 128⟩ 0x100).1.lines.map CacheLine.way1) = [false] := by decide

theorem witness_CacheInstruction :
    (∀ op ∈ [0x00#5, 0x01#5, 0x02#5, 0x08#5, 0x09#5, 0x0A#5, 0x0D#5, 0x0E#5, 0x10#5, 0x18#5, 0x1A#5, 0x1E#5, 0x1F#5],
      cacheOpDefined op = true) ∧ (userAt 0x100).forbidden ((unaligned true 0x80000000).r 2) = true ∧
    (cacheState.forbidden (cacheState.offsetAddr 4 0) = false ∧ cacheState.busError .load (cacheState.offsetAddr 4 0) = false ∧
      cacheState.cfg.limPresent = false ∧ cacheState.cfg.ldmPresent = false ∧ cacheState.Wf = true ∧
      cacheState.cacheable (cacheState.offsetAddr 4 0) = true ∧ (findLine cacheState.dcache.lines 0x100).isSome = true ∧
      ∀ l ∈ cacheState.dcache.lines, l.dirty = false) ∧
    (cacheBusState.forbidden (cacheBusState.offsetAddr 4 0) = false ∧
      cacheBusState.busError .load (cacheBusState.offsetAddr 4 0) = true ∧
      cacheBusState.cacheable (cacheBusState.offsetAddr 4 0) = true) ∧
    ((busState .load (unaligned true 0x2000)).forbidden 0x2000 = false ∧
      (busState .load (unaligned true 0x2000)).busError .load ((busState .load (unaligned true 0x2000)).offsetAddr 2 0) = true ∧
      (busState .load (unaligned true 0x2000)).cacheable 0x2000 = false) ∧
    (({ State.reset with cfg := { Config.default with limPresent := true, ldmPresent := true } } : State).cfg.limPresent = true ∧
      cacheOpDefined 0x03 = true ∧ cacheOpDefined 0x0C = true ∧ State.reset.forbidden 0 = false) ∧
    ((bufferState 4).forbidden ((bufferState 4).offsetAddr 4 0) = false ∧ (bufferState 4).Wf = true ∧
      findLine (bufferState 4).dcache.lines 0x200 = none ∧ (bufferState 4).ccr.wb = true ∧ cacheState.ccr.wb = false) := by
  decide

theorem witness_BoundaryEvents :
    Awake stepState ∧ Awake (debugAt 0x100) ∧ Awake { State.reset with inputs := [{ Pins.idle with dint := true }] } ∧
    Awake { State.reset with ddblvPending := true } ∧ Awake { State.reset with nmiPending := true } ∧
    Awake { State.reset with psr := psrOfWord 1, inputs := [irqPins 1] } ∧
    (Awake breakState ∧ InstrBreakAt breakState breakState.breakPc) ∧ (Awake State.reset ∧ ¬ InstrBreakAt State.reset State.reset.breakPc) := by
  refine ⟨?_, ?_, ?_, ?_, ?_, ?_, ⟨?_, ?_⟩, ?_, ?_⟩
  case refine_8 =>
    exact ⟨{ InstrBreak.reset with addr := 0x9F000000, be := true }, by decide, by decide, by decide, by decide⟩
  case refine_10 =>
    rintro ⟨b, hb, he, -⟩
    have h : State.reset.ibrk.all (fun b => !b.be) = true := by decide
    have := List.all_eq_true.mp h b hb
    rw [he] at this
    exact absurd this (by decide)
  all_goals unfold Awake; decide

theorem witness_UserPrivilege :
    (userAt 0x100).userMode = true ∧ (userAt 0x100).psr.cra = false ∧ (userAt 0x100).pins.reset = false ∧
    stepped (userAt 0x100) (fun t => t.pc) = some 0x102 ∧
    stepped ((userAt 0x100).placeWord 0x8004B802) (fun t => (t.psr.umc, t.pc)) = some (false, 0x9F000200) ∧
    stepped ((userAt 0x100).placeWord 0x800E8006) (fun t => (t.dreg.dm, t.pc)) = some (true, 0x9F0001FC) := by decide

end Sys2Proof.Tests
end

namespace Sys2Proof.Machine

/-! ## The reset input (70_reset_and_hazards.md R720, R721) -/

/-- A step with the reset input asserted does the reset and nothing else: no event of the boundary, and no sleep, is asked. -/
theorem step_of_reset {s : State} (h : s.pins.reset = true) : step s = .next (resetInput s).nextInputs := by
  rw [step, if_pos h]

@[simp] theorem resetInput_mem (s : State) : (resetInput s).mem = s.mem := rfl
@[simp] theorem resetInput_cfg (s : State) : (resetInput s).cfg = s.cfg := rfl
@[simp] theorem resetInput_ibrk (s : State) : (resetInput s).ibrk = s.ibrk.map fun _ => InstrBreak.reset := rfl
@[simp] theorem resetInput_dbrk (s : State) : (resetInput s).dbrk = s.dbrk.map fun _ => DataBreak.reset := rfl

/-- The state after reset is a fixed point of the reset input, so what holds after the input from any state holds of it. -/
theorem resetInput_reset : resetInput State.reset = State.reset := rfl

/-- No instruction breakpoint is enabled after reset (60_exceptions.md R708). -/
theorem be_of_mem_resetInput_ibrk {s : State} {b : InstrBreak} (hb : b ∈ (resetInput s).ibrk) : b.be = false := by
  obtain ⟨_, _, rfl⟩ := List.mem_map.mp (resetInput_ibrk s ▸ hb)
  rfl

/-- Every data breakpoint after reset is disabled and has SZ = 11 and NoSZ = 1 (60_exceptions.md R711). -/
theorem fields_of_mem_resetInput_dbrk {s : State} {b : DataBreak} (hb : b ∈ (resetInput s).dbrk) :
    b.sz = 3#2 ∧ b.noSz = true ∧ b.be = false := by
  obtain ⟨_, _, rfl⟩ := List.mem_map.mp (resetInput_dbrk s ▸ hb)
  exact ⟨rfl, rfl, rfl⟩

/-- The values of R60 and R720 hold after the reset input, whatever the state before. All but the breakpoints, whose number
is the state's own, are fields of `State.reset`. -/
theorem resetState_resetInput (s : State) : ResetState (resetInput s) := by
  unfold ResetState
  refine ⟨rfl, rfl, rfl, rfl, rfl, rfl, rfl, rfl, rfl, rfl, rfl, rfl, ?ibrk, ?dbrk, rfl, rfl, rfl, rfl, rfl, rfl, rfl⟩
  case ibrk => exact fun _ => be_of_mem_resetInput_ibrk
  case dbrk => exact fun _ => fields_of_mem_resetInput_dbrk

/-- The values of reset do not speak of the inputs to come. -/
theorem resetState_nextInputs {t : State} : ResetState t.nextInputs ↔ ResetState t := Iff.rfl

/-- Settles O7: a step with the reset input is `resetInput`, and `State.reset` is one of its results. -/
theorem resetValues : Obligations.ResetValues := by
  unfold Obligations.ResetValues
  constructor
  · exact resetInput_reset ▸ resetState_resetInput State.reset
  · intro s h
    refine ⟨_, step_of_reset h, resetState_nextInputs.mpr (resetState_resetInput s), resetInput_mem s, ?ibrk, ?dbrk,
      resetInput_cfg s⟩
    case ibrk => simp [State.nextInputs]
    case dbrk => simp [State.nextInputs]

end Sys2Proof.Machine

namespace Sys2Proof.Machine

/-! ## The invariant at reset (20_memory.md R80, R112, R120) -/

/-- Settles O8: the reset state has no cells, no cache lines and no buffered stores to check. -/
theorem wfReset : Obligations.WfReset := by
  unfold Obligations.WfReset
  decide

/-- A store of 1 to 0x100 waits in the enabled write buffer, the clean line of the D-cache that holds 0x100 has taken it
already (write-through, 20_memory.md R120), and the reset input is asserted. -/
def waitingStore : State :=
  { State.reset with
    ccr := { State.reset.ccr with wb := true }
    cfg := { Config.default with cacheable := [⟨0, 0x10000⟩] }
    dcache := ⟨[⟨0x100, false, false, false, 1#8 :: List.replicate 15 0#8⟩], []⟩
    wbuf := [⟨[(0x100#32, 1#8)]⟩]
    inputs := [{ Pins.idle with reset := true }] }

theorem waitingStore_wf : waitingStore.Wf = true := by decide

/-- The reset input drops the waiting store and keeps the line (R720, log 29, log 60), which then differs from memory though
it is clean. -/
theorem resetInput_waitingStore_not_wf : (resetInput waitingStore).nextInputs.Wf = false := by decide

/-- Refutes O9: the step of the reset input loses a store that a clean line of the D-cache already shows. -/
theorem not_wfStep : ¬ Obligations.WfStep := by
  unfold Obligations.WfStep
  intro keeps
  have hstep : step waitingStore = .next (resetInput waitingStore).nextInputs := step_of_reset rfl
  have hwf := keeps waitingStore _ waitingStore_wf hstep
  rw [resetInput_waitingStore_not_wf] at hwf
  exact Bool.false_ne_true hwf

/-! ## Values of bytes (20_memory.md R84) -/

/-- A byte below a value. -/
theorem shiftLeft_or_byte {n : Nat} (x : BitVec n) (v : Byte) :
    (x.setWidth 32 <<< 8) ||| v.setWidth 32 = (x ++ v).setWidth 32 := by
  apply BitVec.eq_of_getLsbD_eq
  intro i hi
  rw [BitVec.getLsbD_or, BitVec.getLsbD_shiftLeft, BitVec.getLsbD_setWidth, BitVec.getLsbD_setWidth,
    BitVec.getLsbD_setWidth, BitVec.getLsbD_append]
  by_cases h8 : i < 8
  · simp [hi, h8]
  · simp [hi, h8, show i - 8 < 32 by omega, BitVec.getLsbD_of_ge v i (by omega)]

theorem valueBig_append_singleton (vs : List Byte) (v : Byte) :
    valueBig (vs ++ [v]) = (valueBig vs <<< 8) ||| v.setWidth 32 := by
  simp [valueBig]

theorem valueBig_one (b : Byte) : valueBig [b] = b.setWidth 32 := by
  simp [valueBig]

theorem valueBig_two (b0 b1 : Byte) : valueBig [b0, b1] = (b0 ++ b1).setWidth 32 := by
  rw [show [b0, b1] = [b0] ++ [b1] from rfl, valueBig_append_singleton, valueBig_one, shiftLeft_or_byte]

theorem valueBig_four (b0 b1 b2 b3 : Byte) : valueBig [b0, b1, b2, b3] = b0 ++ b1 ++ b2 ++ b3 := by
  rw [show [b0, b1, b2, b3] = [b0, b1] ++ [b2] ++ [b3] from rfl, valueBig_append_singleton, valueBig_append_singleton,
    valueBig_two, shiftLeft_or_byte, shiftLeft_or_byte]
  exact BitVec.setWidth_eq _

theorem add_one_add_one (a : Word) : a + 1#32 + 1#32 = a + 2#32 := by
  rw [BitVec.add_assoc]; rfl

theorem add_two_add_one (a : Word) : a + 2#32 + 1#32 = a + 3#32 := by
  rw [BitVec.add_assoc]; rfl

/-- `MemRead` of one byte. -/
theorem State.readMem_one (s : State) (a : Word) : s.readMem a 1 = (s.readByte a).setWidth 32 := by
  unfold State.readMem bytesValue
  split <;> exact valueBig_one _

/-- `MemRead` of a halfword. -/
theorem State.readMem_two (s : State) (a : Word) : s.readMem a 2 = (s.half a).setWidth 32 := by
  unfold State.readMem bytesValue State.half
  split
  · exact valueBig_two _ _
  · exact valueBig_two _ _

/-- `MemRead` of a word. -/
theorem State.readMem_four (s : State) (a : Word) : s.readMem a 4 = s.word a := by
  have hb : s.readBytes a 4 =
      [s.readByte a, s.readByte (a + 1#32), s.readByte (a + 2#32), s.readByte (a + 3#32)] := by
    simp only [State.readBytes, add_one_add_one, add_two_add_one]
  unfold State.readMem bytesValue State.word
  rw [hb]
  split
  · exact valueBig_four _ _ _ _
  · exact valueBig_four _ _ _ _

/-! ## What a load does with the value it has read -/

/-- A value that has been widened is narrowed to itself. -/
theorem setWidth_of_widened {n : Nat} (hn : n ≤ 32) (v : BitVec n) : (v.setWidth 32).setWidth n = v := by
  rw [BitVec.setWidth_setWidth_of_le v hn, BitVec.setWidth_eq]

theorem State.sext16_readMem (s : State) (a : Word) : sext16 (s.readMem a 2) = (s.half a).signExtend 32 := by
  rw [s.readMem_two a]
  exact congrArg sext (setWidth_of_widened (by decide) _)

theorem State.zext16_readMem (s : State) (a : Word) : zext16 (s.readMem a 2) = (s.half a).setWidth 32 := by
  rw [s.readMem_two a]
  exact congrArg zext (setWidth_of_widened (by decide) _)

theorem State.sext8_readMem (s : State) (a : Word) : sext8 (s.readMem a 1) = (s.readByte a).signExtend 32 := by
  rw [s.readMem_one a]
  exact congrArg sext (setWidth_of_widened (by decide) _)

theorem State.zext8_readMem (s : State) (a : Word) : zext8 (s.readMem a 1) = (s.readByte a).setWidth 32 := by
  rw [s.readMem_one a]
  exact congrArg zext (setWidth_of_widened (by decide) _)

/-! ## The bytes of a stored value -/

/-- The low bytes of a word, put together again. -/
theorem valueBig_littleBytes (v : Word) (n : Nat) :
    valueBig (littleBytes v n).reverse = (v.setWidth (8 * n)).setWidth 32 := by
  induction n generalizing v with
  | zero =>
    apply BitVec.eq_of_getLsbD_eq
    intro i _
    simp [valueBig, littleBytes]
  | succ n ih =>
    rw [littleBytes, List.reverse_cons, valueBig_append_singleton, ih]
    apply BitVec.eq_of_getLsbD_eq
    intro i hi
    rw [BitVec.getLsbD_or, BitVec.getLsbD_shiftLeft, BitVec.getLsbD_setWidth, BitVec.getLsbD_setWidth,
      BitVec.getLsbD_setWidth, BitVec.getLsbD_setWidth, BitVec.getLsbD_setWidth, BitVec.getLsbD_ushiftRight]
    by_cases h8 : i < 8
    · simp [hi, h8, show i < 8 * (n + 1) by omega]
    · simp [hi, h8, show i - 8 < 32 by omega, show 8 + (i - 8) = i by omega,
        show (i - 8 < 8 * n) = (i < 8 * (n + 1)) from propext (by omega)]

/-- In either byte order the bytes of a store have the value stored. -/
theorem bytesValue_valueBytes (be : Bool) (v : Word) (n : Nat) :
    bytesValue be (valueBytes be v n) = (v.setWidth (8 * n)).setWidth 32 := by
  unfold bytesValue valueBytes
  split <;> exact valueBig_littleBytes v n

theorem getLsbD_getElem_littleBytes (v : Word) (n k i : Nat) (hk : k < (littleBytes v n).length) (hi : i < 8) :
    ((littleBytes v n)[k]).getLsbD i = v.getLsbD (8 * k + i) := by
  induction n generalizing v k with
  | zero => simp [littleBytes] at hk
  | succ n ih =>
    cases k with
    | zero => simp [littleBytes, hi]
    | succ k =>
      simp only [littleBytes, List.getElem_cons_succ]
      rw [ih _ _ (by simpa [littleBytes] using hk), BitVec.getLsbD_ushiftRight]
      congr 1
      omega

/-- The byte of a store at its `k`-th address: the bytes rise with the addresses in little endian and fall in big endian. -/
theorem getLsbD_getElem_valueBytes (be : Bool) (v : Word) (n k i : Nat) (hk : k < (valueBytes be v n).length)
    (hi : i < 8) :
    ((valueBytes be v n)[k]).getLsbD i = v.getLsbD (8 * (if be then n - 1 - k else k) + i) := by
  cases be with
  | false => exact getLsbD_getElem_littleBytes v n k i hk hi
  | true =>
    simp only [valueBytes, if_true, List.getElem_reverse, littleBytes_length]
    exact getLsbD_getElem_littleBytes v n _ i _ hi

/-! ## The bytes of a word -/

/-- The address of the byte of significance `q` in the word at `wa`. -/
def byteAddr (be : Bool) (wa : Word) (q : Nat) : Word := wa + BitVec.ofNat 32 (if be then 3 - q else q)

/-- Four bytes side by side, by their bits. -/
theorem getLsbD_four_bytes (f : Nat → Byte) {i : Nat} (hi : i < 32) :
    (f 3 ++ f 2 ++ f 1 ++ f 0).getLsbD i = (f (i / 8)).getLsbD (i % 8) := by
  simp only [BitVec.getLsbD_append]
  have hq : i / 8 = 0 ∨ i / 8 = 1 ∨ i / 8 = 2 ∨ i / 8 = 3 := by omega
  rcases hq with h | h | h | h
  · rw [h, if_pos (by omega), show i % 8 = i by omega]
  · rw [h, if_neg (by omega), if_pos (by omega), show i % 8 = i - 8 by omega]
  · rw [h, if_neg (by omega), if_neg (by omega), if_pos (by omega), show i % 8 = i - 8 - 8 by omega]
  · rw [h, if_neg (by omega), if_neg (by omega), if_neg (by omega), show i % 8 = i - 8 - 8 - 8 by omega]

/-- A word by its bits: each is a bit of the byte that holds it. -/
theorem State.getLsbD_word (s : State) (wa : Word) {i : Nat} (hi : i < 32) :
    (s.word wa).getLsbD i = (s.readByte (byteAddr s.cfg.bigEndian wa (i / 8))).getLsbD (i % 8) := by
  rw [← getLsbD_four_bytes (fun q => s.readByte (byteAddr s.cfg.bigEndian wa q)) hi]
  unfold State.word byteAddr
  split <;> simp

/-! ## Registers -/

/-- Reading a register after two were written: the second one's value wins, and a register written twice is free (log 13). -/
@[simp] theorem State.r_setR2 (s : State) (i : BitVec 5) (v : Word) (j : BitVec 5) (w : Word) (k : BitVec 5) :
    (s.setR2 i v j w).r k =
      if k = j then if i = j then s.freeWord else w else if k = i then v else s.r k := by
  unfold State.setR2
  by_cases hij : i = j
  · subst hij
    by_cases hk : k = i <;> simp [hk]
  · simp [hij]

/-- Two writes change general registers and the counter of free values only. -/
theorem State.setR2_eq (s : State) (i : BitVec 5) (v : Word) (j : BitVec 5) (w : Word) :
    ∃ g k, s.setR2 i v j w = { s with gpr := g, freeCtr := k } := by
  unfold State.setR2
  split <;> exact ⟨_, _, rfl⟩

theorem sameRegs_setR (s : State) (i : BitVec 5) (v : Word) : SameRegs [i] s (s.setR i v) := by
  intro k hk
  have : k ≠ i := by simpa using hk
  simp [this]

theorem sameRegs_setR2 (s : State) (i : BitVec 5) (v : Word) (j : BitVec 5) (w : Word) :
    SameRegs [i, j] s (s.setR2 i v j w) := by
  intro k hk
  have : k ≠ i ∧ k ≠ j := by simpa using hk
  simp [this]

/-! ## What a load writes besides the pc, the caches and the write buffer -/

/-- What a load does with its value: it writes the listed general registers, LCR, ATbit or a coprocessor, and uses up free
values. -/
def LoadWrites (except : List (BitVec 5)) (u t : State) : Prop :=
  SameRegs except u t ∧ ∃ g l b c1 c2 c3 k,
    t = { u with gpr := g, lcr := l, atbit := b, cop1 := c1, cop2 := c2, cop3 := c3, freeCtr := k }

theorem loadWrites_setR (u : State) (i : BitVec 5) (v : Word) : LoadWrites [i] u (u.setR i v) :=
  ⟨sameRegs_setR u i v, _, _, _, _, _, _, _, rfl⟩

theorem loadWrites_setR2 (u : State) (i : BitVec 5) (v : Word) (j : BitVec 5) (w : Word) :
    LoadWrites [i, j] u (u.setR2 i v j w) := by
  refine ⟨sameRegs_setR2 u i v j w, ?_⟩
  obtain ⟨g, k, h⟩ := u.setR2_eq i v j w
  exact ⟨g, u.lcr, u.atbit, u.cop1, u.cop2, u.cop3, k, h⟩

/-- LCR may be written first (43_load_store.md R390 to R392). -/
theorem LoadWrites.of_lcr {ex : List (BitVec 5)} {u t : State} {l : Word} (h : LoadWrites ex { u with lcr := l } t) :
    LoadWrites ex u t := by
  obtain ⟨hr, g, l', b, c1, c2, c3, k, rfl⟩ := h
  exact ⟨hr, g, l', b, c1, c2, c3, k, rfl⟩

/-- ATbit may be written first (43_load_store.md R398). -/
theorem LoadWrites.of_atbit {ex : List (BitVec 5)} {u t : State} {b : Bool}
    (h : LoadWrites ex { u with atbit := b } t) : LoadWrites ex u t := by
  obtain ⟨hr, g, l, b', c1, c2, c3, k, rfl⟩ := h
  exact ⟨hr, g, l, b', c1, c2, c3, k, rfl⟩

theorem loadWrites_setCopData (u : State) (z : CopNum) (cra : BitVec 5) (v : Word) :
    LoadWrites [] u (u.setCopData z cra v) := by
  cases z <;> exact ⟨fun _ _ => rfl, _, _, _, _, _, _, _, rfl⟩

/-! ## The state a load's access leaves -/

/-- What the access of a load changes: memory, the write buffer and the D-cache, in a way that no later load sees, and
`ddblv_pending`. -/
structure LoadLeaves (s u : State) : Prop where
  fields : ∃ m b d p, u = { s with mem := m, wbuf := b, dcache := d, ddblvPending := p }
  bytes : s.Wf = true → SameMem s u
  buffer : LoadBuffer s u

theorem loadLeaves_afterLoad (s : State) (x : Acc) : LoadLeaves s (s.afterLoad x) :=
  ⟨s.afterLoad_eq x, fun h => State.sameMem_afterLoad h x, s.loadBuffer_afterLoad x⟩

/-- The frame of a load from what its access leaves and what it writes. -/
theorem LoadLeaves.frame {s u t : State} (h : LoadLeaves s u) {ex : List (BitVec 5)} (hw : LoadWrites ex u t)
    (w : Width) : LoadFrame ex w s (t.advance w) := by
  obtain ⟨⟨m, b, d, p, rfl⟩, hbytes, hbuf⟩ := h
  obtain ⟨hr, g, l, a, c1, c2, c3, k, rfl⟩ := hw
  exact ⟨rfl, hr, rfl, hbytes, ⟨rfl, rfl⟩, ⟨rfl, rfl, rfl, rfl, rfl, rfl, rfl, rfl⟩, ⟨rfl, rfl, rfl, rfl, rfl⟩,
    ⟨rfl, rfl, rfl, rfl, rfl, rfl, rfl, rfl, rfl⟩, hbuf⟩

/-- What the access of a load leaves of the special registers, ATbit and the coprocessors. -/
theorem LoadLeaves.special {s u : State} (h : LoadLeaves s u) :
    SameSpecial s u ∧ SameCops s u ∧ u.atbit = s.atbit := by
  obtain ⟨⟨m, b, d, p, rfl⟩, -, -⟩ := h
  exact ⟨⟨rfl, rfl, rfl⟩, ⟨rfl, rfl, rfl⟩, rfl⟩

@[simp] theorem Acc.at_addr (a : Word) (n : Nat) : (Acc.at a n).addr = a := rfl
@[simp] theorem Acc.at_bytes (a : Word) (n : Nat) : (Acc.at a n).bytes = n := rfl

/-! ## The loads that write general registers -/

/-- A load of `n` bytes into `rd` (43_load_store.md R361). -/
theorem loadsTo_of_exec {rd : BitVec 5} {w : Width} {s : State} {a : Word} {n : Nat} {v : Word} {i : Instr}
    {f : Word → Word} (h : exec i s = loadThen w s (.at a n) none fun v t => t.setR rd (f v))
    (hv : f (s.readMem a n) = v) : LoadsTo rd w s a n v i := by
  intro ready
  have hl := loadLeaves_afterLoad s (.at a n)
  refine ⟨_, h.trans (loadThen_ready ready _), ?value, hl.frame (loadWrites_setR _ _ _) w, hl.special⟩
  simpa using hv

/-- A load of `n` bytes into `rd` with a new base in `ra` (43_load_store.md R361, R363). -/
theorem loadsIndexed_of_exec {rd ra : BitVec 5} {w : Width} {s : State} {a : Word} {n : Nat} {v base : Word} {i : Instr}
    {f : Word → Word} (h : exec i s = loadThen w s (.at a n) none fun v t => t.setR2 rd (f v) ra base)
    (hv : f (s.readMem a n) = v) : LoadsIndexed rd ra w s a n v base i := by
  intro ready
  have hl := loadLeaves_afterLoad s (.at a n)
  refine ⟨_, h.trans (loadThen_ready ready _), ?regs, hl.frame (loadWrites_setR2 _ _ _ _ _) w, ?special⟩
  case regs =>
    intro hne
    simpa [hne] using hv
  case special =>
    obtain ⟨g, k, e⟩ := (s.afterLoad (.at a n)).setR2_eq rd (f (s.readMem a n)) ra base
    rw [Acc.at_addr, Acc.at_bytes, e]
    exact hl.special

/-! ## What a store writes besides the pc, the bytes and the write buffer -/

/-- What a store does after its access: it writes the listed general registers and SCR. -/
def StoreWrites (except : List (BitVec 5)) (u t : State) : Prop :=
  SameRegs except u t ∧ ∃ g c, t = { u with gpr := g, scr := c }

theorem storeWrites_refl (u : State) : StoreWrites [] u u :=
  ⟨fun _ _ => rfl, u.gpr, u.scr, rfl⟩

theorem storeWrites_setR (u : State) (i : BitVec 5) (v : Word) : StoreWrites [i] u (u.setR i v) :=
  ⟨sameRegs_setR u i v, _, u.scr, rfl⟩

/-- SCR may be written first (43_load_store.md R395, R396). -/
theorem StoreWrites.of_scr {ex : List (BitVec 5)} {u t : State} {c : Word} (h : StoreWrites ex { u with scr := c } t) :
    StoreWrites ex u t := by
  obtain ⟨hr, g, c', rfl⟩ := h
  exact ⟨hr, g, c', rfl⟩

/-- The frame of an allowed store. -/
theorem StoreReady.frame {s t : State} {x : Acc} {v : Word} (h : StoreReady s x v) (hm : s.mem.wf = true)
    (hx : x.bytes ≤ 4) {ex : List (BitVec 5)} (hw : StoreWrites ex (s.afterStore x v) t) (w : Width) :
    StoreFrame ex w x.addr x.bytes s (t.advance w) := by
  obtain ⟨-, -, hbus, -, hdrseg⟩ := h
  have hother := State.sameMemBut_afterStore hm x v hbus hdrseg
  have hbuf := State.storeBuffer_afterStore hm hx v hbus hdrseg
  obtain ⟨m, b, d, e⟩ := s.afterStore_eq x v hbus hdrseg
  obtain ⟨hr, g, c, rfl⟩ := hw
  rw [e] at hother hbuf hr ⊢
  exact ⟨rfl, hr, rfl, hother, ⟨rfl, rfl⟩,
    ⟨⟨rfl, rfl, rfl, rfl, rfl, rfl, rfl, rfl⟩, ⟨rfl, rfl, rfl, rfl, rfl⟩, ⟨rfl, rfl, rfl⟩,
      ⟨rfl, rfl, rfl, rfl, rfl, rfl, rfl, rfl, rfl⟩, rfl, rfl⟩, hbuf⟩

/-- An allowed store leaves the special registers. -/
theorem StoreReady.special {s : State} {x : Acc} {v : Word} (h : StoreReady s x v) :
    SameSpecial s (s.afterStore x v) := by
  obtain ⟨-, -, hbus, -, hdrseg⟩ := h
  obtain ⟨m, b, d, e⟩ := s.afterStore_eq x v hbus hdrseg
  rw [e]
  exact ⟨rfl, rfl, rfl⟩

/-! ## The bytes of a store -/

theorem State.readBytes_length (s : State) (a : Word) (n : Nat) : (s.readBytes a n).length = n := by
  induction n generalizing a with
  | zero => rfl
  | succ n ih => simp [State.readBytes, ih]

theorem add_ofNat_succ (a : Word) (k : Nat) : a + BitVec.ofNat 32 (k + 1) = a + 1#32 + BitVec.ofNat 32 k := by
  rw [BitVec.add_assoc, Nat.add_comm, BitVec.ofNat_add]

theorem State.getElem_readBytes (s : State) (a : Word) (n k : Nat) (hk : k < (s.readBytes a n).length) :
    (s.readBytes a n)[k] = s.readByte (a + BitVec.ofNat 32 k) := by
  induction n generalizing a k with
  | zero => simp [State.readBytes] at hk
  | succ n ih =>
    cases k with
    | zero => simp [State.readBytes]
    | succ k =>
      simp only [State.readBytes, List.getElem_cons_succ]
      rw [ih, add_ofNat_succ a k]

/-- The byte at the `k`-th address of an allowed store. -/
theorem StoreReady.readByte_at {s : State} {x : Acc} {v : Word} (h : StoreReady s x v) (hm : s.mem.wf = true)
    (hx : x.bytes ≤ 4) {k : Nat} (hk : k < (valueBytes s.cfg.bigEndian v x.bytes).length) :
    (s.afterStore x v).readByte (x.addr + BitVec.ofNat 32 k) = (valueBytes s.cfg.bigEndian v x.bytes)[k] := by
  obtain ⟨-, -, hbus, -, hdrseg⟩ := h
  have hcfg : (s.touchD x.addr).cfg = s.cfg := by
    obtain ⟨d, e⟩ := s.touchD_eq x.addr
    rw [e]
  rw [State.afterStore_bytes v hbus hdrseg, hcfg]
  exact State.readByte_storeBytes_at (by rw [State.touchD_mem]; exact hm) _ _ (by simpa using hx) k hk

/-- An allowed store leaves the configuration. -/
theorem StoreReady.cfg {s : State} {x : Acc} {v : Word} (h : StoreReady s x v) : (s.afterStore x v).cfg = s.cfg := by
  obtain ⟨-, -, hbus, -, hdrseg⟩ := h
  obtain ⟨m, b, d, e⟩ := s.afterStore_eq x v hbus hdrseg
  rw [e]

/-- After an allowed store its bytes read as the low bytes of the value. -/
theorem StoreReady.readMem {s : State} {x : Acc} {v : Word} (h : StoreReady s x v) (hm : s.mem.wf = true)
    (hx : x.bytes ≤ 4) : (s.afterStore x v).readMem x.addr x.bytes = (v.setWidth (8 * x.bytes)).setWidth 32 := by
  have hbytes : (s.afterStore x v).readBytes x.addr x.bytes = valueBytes s.cfg.bigEndian v x.bytes := by
    apply List.ext_getElem (by simp [State.readBytes_length])
    intro k h1 h2
    rw [State.getElem_readBytes, h.readByte_at hm hx h2]
  rw [State.readMem, hbytes, h.cfg, bytesValue_valueBytes]

/-- After an allowed store the low bytes of the value stand at its address. -/
theorem StoreReady.holds {s : State} {a : Word} {n : Nat} {v : Word} (h : StoreReady s (.at a n) v)
    (hm : s.mem.wf = true) (hn : n ≤ 4) : Holds (s.afterStore (.at a n) v) a n v := by
  have hr := h.readMem hm hn
  rw [Acc.at_addr, Acc.at_bytes] at hr
  refine ⟨?byte, ?half, ?word⟩
  case byte =>
    rintro rfl
    rw [State.readMem_one] at hr
    simpa only [setWidth_of_widened (show 8 ≤ 32 by decide)] using congrArg (BitVec.setWidth 8) hr
  case half =>
    rintro rfl
    rw [State.readMem_two] at hr
    simpa only [setWidth_of_widened (show 16 ≤ 32 by decide)] using congrArg (BitVec.setWidth 16) hr
  case word =>
    rintro rfl
    rw [State.readMem_four] at hr
    simpa using hr

/-! ## The stores that write general registers -/

/-- A store of the low `n` bytes of `v` (43_load_store.md R361). -/
theorem storesAt_of_exec {w : Width} {s : State} {a : Word} {n : Nat} {v : Word} {i : Instr}
    (h : exec i s = storeThen w s (.at a n) v none id) (hn : n ≤ 4) : StoresAt w s a n v i := by
  intro ready hm
  exact ⟨_, h.trans (storeThen_ready ready _), ready.holds hm hn, ready.frame hm hn (storeWrites_refl _) w, ready.special⟩

/-- A store of the low `n` bytes of `v` with a new base in `ra` (43_load_store.md R361, R363). -/
theorem storesIndexed_of_exec {ra : BitVec 5} {w : Width} {s : State} {a : Word} {n : Nat} {v base : Word} {i : Instr}
    (h : exec i s = storeThen w s (.at a n) v none fun t => t.setR ra base) (hn : n ≤ 4) :
    StoresIndexed ra w s a n v base i := by
  intro ready hm
  refine ⟨_, h.trans (storeThen_ready ready _), ready.holds hm hn, ?base, ready.frame hm hn (storeWrites_setR _ _ _) w,
    ready.special⟩
  case base => simp

/-! ## The addresses of the base-pointer forms (46_16bit.md R548) -/

/-- A base-pointer address is BP plus the field times the size of the access. -/
theorem State.bpAddr_eq (s : State) (i : BitVec 5) (k : Nat) :
    s.bpAddr i k = s.r 2#5 + BitVec.ofNat 32 (2 ^ k * i.toNat) := by
  have hi : i.toNat < 2 ^ 32 := by have := i.isLt; omega
  refine congrArg (s.r 2#5 + ·) (BitVec.eq_of_toNat_eq ?_)
  rw [BitVec.toNat_shiftLeft, zext, BitVec.toNat_setWidth, Nat.mod_eq_of_lt hi, BitVec.toNat_ofNat, Nat.shiftLeft_eq,
    Nat.mul_comm]

/-! ## Obligations -/

/-- Settles O27: each of the eleven is `loadThen` at its address with its extension of the value. -/
theorem loads : Obligations.Loads := by
  unfold Obligations.Loads
  intro s rd ra imm d a i5
  exact ⟨loadsTo_of_exec (f := id) rfl (s.readMem_four _), loadsTo_of_exec rfl (s.sext16_readMem _),
    loadsTo_of_exec rfl (s.zext16_readMem _), loadsTo_of_exec rfl (s.sext8_readMem _),
    loadsTo_of_exec rfl (s.zext8_readMem _), loadsTo_of_exec (f := id) rfl (s.readMem_four _),
    loadsTo_of_exec rfl (s.sext16_readMem _), loadsTo_of_exec rfl (s.zext8_readMem _),
    loadsTo_of_exec (f := id) rfl (s.readMem_four _), loadsTo_of_exec rfl (s.sext16_readMem _),
    loadsTo_of_exec rfl (s.zext8_readMem _), rfl, s.bpAddr_eq i5 2, s.bpAddr_eq i5 1,
    (s.bpAddr_eq i5 0).trans (by rw [Nat.pow_zero, Nat.one_mul])⟩

/-- Settles O28: each of the ten is `loadThen` at the new or the old base, with `setR2` of value and base. -/
theorem indexedLoads : Obligations.IndexedLoads := by
  unfold Obligations.IndexedLoads
  rintro s rd ra imm p a rfl rfl
  exact ⟨loadsIndexed_of_exec (f := id) rfl (s.readMem_four _), loadsIndexed_of_exec rfl (s.sext16_readMem _),
    loadsIndexed_of_exec rfl (s.zext16_readMem _), loadsIndexed_of_exec rfl (s.sext8_readMem _),
    loadsIndexed_of_exec rfl (s.zext8_readMem _), loadsIndexed_of_exec (f := id) rfl (s.readMem_four _),
    loadsIndexed_of_exec rfl (s.sext16_readMem _), loadsIndexed_of_exec rfl (s.zext16_readMem _),
    loadsIndexed_of_exec rfl (s.sext8_readMem _), loadsIndexed_of_exec rfl (s.zext8_readMem _), rfl⟩

/-- Settles O29: each of the nine is `storeThen` of the source at its address. -/
theorem stores : Obligations.Stores := by
  unfold Obligations.Stores
  intro s rd ra imm d a i5
  have four : 4 ≤ 4 := le_refl 4
  have two : 2 ≤ 4 := by decide
  have one : 1 ≤ 4 := by decide
  exact ⟨storesAt_of_exec rfl four, storesAt_of_exec rfl two, storesAt_of_exec rfl one, storesAt_of_exec rfl four,
    storesAt_of_exec rfl two, storesAt_of_exec rfl one, storesAt_of_exec rfl four, storesAt_of_exec rfl two,
    storesAt_of_exec rfl one⟩

/-- Settles O30: each of the six is `storeThen` of the source, read before the base is written. -/
theorem indexedStores : Obligations.IndexedStores := by
  unfold Obligations.IndexedStores
  intro s rd ra imm
  have four : 4 ≤ 4 := le_refl 4
  have two : 2 ≤ 4 := by decide
  have one : 1 ≤ 4 := by decide
  exact ⟨storesIndexed_of_exec rfl four, storesIndexed_of_exec rfl two, storesIndexed_of_exec rfl one,
    storesIndexed_of_exec rfl four, storesIndexed_of_exec rfl two, storesIndexed_of_exec rfl one⟩

/-! ## `push!` and `pop!` (46_16bit.md R560, R561) -/

/-- Whether a load passes its checks is decided by the mode, the breakpoint unit and the configuration. -/
theorem LoadReady.congr {s t : State} (hd : t.dreg = s.dreg) (hp : t.psr = s.psr) (hi : t.ibrk = s.ibrk)
    (hb : t.dbrk = s.dbrk) (hc : t.cfg = s.cfg) {x : Acc} (h : LoadReady s x) : LoadReady t x := by
  obtain ⟨hbreak, haddr, hbus, hstop, hdrseg⟩ := h
  have hread : ∀ off, t.drsegRead off = s.drsegRead off := by
    intro off
    simp only [State.drsegRead, hi, hb, hc]
  have hhit : t.ddblaHit = s.ddblaHit := by
    funext v
    simp only [State.ddblaHit, hd, hb, hc]
  have hforbidden : t.forbidden = s.forbidden := by
    funext a
    simp only [State.forbidden, State.userMode, State.kernelSpace, hd, hp, hc]
  refine ⟨?watch, ?addr, ?bus, ?stop, hdrseg⟩
  case watch => rwa [State.loadBreak, hhit, hc]
  case addr => rwa [State.addrError, hforbidden]
  case bus => rwa [State.busError, hc]
  case stop => simpa only [State.debugSegmentStop, hread, hc] using hstop

/-- A load that passes its checks passes them after a store. -/
theorem LoadReady.after_store {s t : State} {x : Acc} (h : LoadReady s x) {ex : List (BitVec 5)} {w : Width} {a : Word}
    {n : Nat} (hs : StoreFrame ex w a n s t) : LoadReady t x := by
  obtain ⟨-, -, -, -, -, ⟨hcontrol, hdebug, -, hhidden, -, -⟩, -⟩ := hs
  obtain ⟨hpsr, -⟩ := hcontrol
  obtain ⟨hdreg, -, -, hibrk, hdbrk⟩ := hdebug
  obtain ⟨-, -, -, -, -, hcfg, -⟩ := hhidden
  exact h.congr hdreg hpsr hibrk hdbrk hcfg

theorem storesIndexed_push (s : State) (rd : BitVec 5) (b : BitVec 3) :
    StoresIndexed (gBase b) .w16 s (s.pushAddr b) 4 (s.r rd) (s.r (gBase b) - 4#32) (.push16 rd b) :=
  storesIndexed_of_exec rfl (le_refl 4)

theorem loadsIndexed_pop (s : State) (rd : BitVec 5) (b : BitVec 3) :
    LoadsIndexed rd (gBase b) .w16 s (s.r (gBase b)) 4 (s.word (s.r (gBase b))) (s.r (gBase b) + 4#32) (.pop16 rd b) :=
  loadsIndexed_of_exec (f := id) rfl (s.readMem_four _)

theorem gBase_toNat (b : BitVec 3) : (gBase b).toNat = b.toNat := by
  revert b
  decide

/-- Settles O31: `pop!` loads at the base that `push!` has left the word that `push!` has stored there. -/
theorem pushPop : Obligations.PushPop := by
  unfold Obligations.PushPop
  intro s rd b
  refine ⟨storesIndexed_push s rd b, rfl, gBase_toNat b, loadsIndexed_pop s rd b, ?undo⟩
  intro rd' hstore hload hm hne
  obtain ⟨t, ht, ⟨-, -, hword⟩, hbase, hframe, -⟩ := storesIndexed_push s rd b hstore hm
  have hload' : LoadReady t (.at (t.r (gBase b)) 4) := hbase ▸ hload.after_store hframe
  obtain ⟨u, hu, hregs, -⟩ := loadsIndexed_pop t rd' b hload'
  obtain ⟨hrd, hra⟩ := hregs hne
  refine ⟨t, u, ht, hu, ?value, ?base⟩
  case value => rw [hrd, hbase]; exact hword rfl
  case base => rw [hra, hbase, BitVec.sub_add_cancel]

/-! ## `alw` and `asw` (43_load_store.md R398, R399) -/

/-- The low bits of an address say how it is aligned. -/
theorem misaligned_iff (a : Word) (n : Nat) :
    misaligned a n = true ↔ n = 2 ∧ a.toNat % 2 = 1 ∨ n = 4 ∧ a.toNat % 4 ≠ 0 := by
  have h0 : a.getLsbD 0 = decide (a.toNat % 2 = 1) := by
    rw [BitVec.getLsbD, Nat.testBit_zero]
  have h1 : a.getLsbD 1 = decide (a.toNat / 2 % 2 = 1) := by
    rw [BitVec.getLsbD, Nat.testBit_succ, Nat.testBit_zero]
  simp only [misaligned, h0, h1, Bool.or_eq_true, Bool.and_eq_true, beq_iff_eq, decide_eq_true_eq]
  omega

/-- An instruction that writes general registers only. -/
theorem computeFrame_of_gpr {s : State} {ex : List (BitVec 5)} {g : Vector Word 32} {k : Nat}
    (h : SameRegs ex s { s with gpr := g, freeCtr := k }) (w : Width) :
    ComputeFrame ex w s (State.advance { s with gpr := g, freeCtr := k } w) :=
  ⟨rfl, h, ⟨rfl, rfl⟩, fun _ => rfl, ⟨rfl, rfl⟩, ⟨rfl, rfl, rfl⟩,
    ⟨⟨rfl, rfl, rfl, rfl, rfl, rfl, rfl, rfl⟩, ⟨rfl, rfl, rfl, rfl, rfl⟩, ⟨rfl, rfl, rfl⟩,
      ⟨rfl, rfl, rfl, rfl, rfl, rfl, rfl, rfl, rfl⟩, rfl, rfl⟩, ⟨rfl, rfl⟩⟩

theorem computeFrame_setR (s : State) (i : BitVec 5) (v : Word) (w : Width) :
    ComputeFrame [i] w s ((s.setR i v).advance w) :=
  computeFrame_of_gpr (sameRegs_setR s i v) w

theorem computeFrame_setR2 (s : State) (i : BitVec 5) (v : Word) (j : BitVec 5) (u : Word) (w : Width) :
    ComputeFrame [i, j] w s ((s.setR2 i v j u).advance w) := by
  have hr := sameRegs_setR2 s i v j u
  obtain ⟨g, k, e⟩ := s.setR2_eq i v j u
  rw [e] at hr ⊢
  exact computeFrame_of_gpr hr w

/-- Without ATbit `asw` checks its address and stores nothing. -/
theorem exec_asw_of_clear {s : State} (h : s.atbit = false) (rd ra : BitVec 5) :
    exec (.asw rd ra) s =
      if (s.r ra).toNat % 4 ≠ 0 ∨ s.forbidden (s.r ra) = true then raise (.ades (s.r ra)) .w32 s
      else done .w32 (s.setR rd 0#32) := by
  have hexec : exec (.asw rd ra) s =
      match s.addrError .store (s.r ra) 4 with
      | some x => raise x .w32 s
      | none => done .w32 (s.setR rd 0#32) := if_neg (by simp [h])
  have hmis : misaligned (s.r ra) 4 = true ↔ (s.r ra).toNat % 4 ≠ 0 := by simp [misaligned_iff]
  rw [hexec, State.addrError]
  simp only [Bool.or_eq_true, hmis]
  by_cases herr : (s.r ra).toNat % 4 ≠ 0 ∨ s.forbidden (s.r ra) = true
  · rw [if_pos herr, if_pos herr]; rfl
  · rw [if_neg herr, if_neg herr]

/-- Settles O36: `alw` is a load that sets ATbit, `asw` a store guarded by it. -/
theorem atomicPair : Obligations.AtomicPair := by
  unfold Obligations.AtomicPair
  intro s rd ra
  refine ⟨?alw, ?stores, ?fails, ?raises⟩
  case alw =>
    intro ready
    have hl := loadLeaves_afterLoad s (.at (s.r ra) 4)
    obtain ⟨hspecial, hcops, -⟩ := hl.special
    have hexec : exec (.alw rd ra) s = loadThen .w32 s (.at (s.r ra) 4) none fun v t =>
        State.setR { t with atbit := true } rd v := rfl
    refine ⟨_, hexec.trans (loadThen_ready ready _), ?_, rfl, hl.frame (loadWrites_setR _ _ _).of_atbit .w32, hspecial, hcops⟩
    simp [State.readMem_four]
  case stores =>
    intro hat ready hm
    have hexec : exec (.asw rd ra) s =
        storeThen .w32 s (.at (s.r ra) 4) (s.r rd) none fun t => t.setR rd (boolWord true) := if_pos hat
    obtain ⟨-, -, hword⟩ := ready.holds hm (le_refl 4)
    refine ⟨_, hexec.trans (storeThen_ready ready _), hword rfl, ?_, ready.frame hm (le_refl 4) (storeWrites_setR _ _ _) .w32,
      ready.special⟩
    simp [boolWord]
  case fails =>
    intro hat haligned hallowed
    have hok : ¬ ((s.r ra).toNat % 4 ≠ 0 ∨ s.forbidden (s.r ra) = true) := by simp [haligned, hallowed]
    refine ⟨_, (exec_asw_of_clear hat rd ra).trans (if_neg hok), ?_, computeFrame_setR s rd _ .w32, rfl⟩
    simp
  case raises =>
    intro hat herr
    exact (exec_asw_of_clear hat rd ra).trans (if_pos herr)

/-! ## `ldcz` and `stcz` (44_ce_cop.md R447, R448) -/

/-- The offset of `ldcz` and `stcz` is four times the field. -/
theorem imm10Offset_eq (imm : BitVec 10) : imm10Offset imm = 4#32 * imm.signExtend 32 := by
  rw [show (4#32 : Word) = BitVec.twoPow 32 2 from rfl, BitVec.mul_comm, BitVec.mul_twoPow_eq_shiftLeft]
  apply BitVec.eq_of_getLsbD_eq
  intro i hi
  rw [imm10Offset, sext, BitVec.getLsbD_signExtend, BitVec.getLsbD_shiftLeft, BitVec.getLsbD_signExtend,
    BitVec.getLsbD_append]
  by_cases h2 : i < 2
  · simp [h2, show i < 12 by omega]
  · by_cases h12 : i < 12
    · simp [hi, h2, h12, show i - 2 < 10 by omega, show i - 2 < 32 by omega]
    · have hmsb : (imm ++ 0#2).msb = imm.msb := BitVec.msb_append
      simp [hi, h2, h12, show ¬ i - 2 < 10 by omega, show i - 2 < 32 by omega, hmsb]

/-- Replacing the registers of a coprocessor leaves the other two. -/
theorem State.cop_setCop (s : State) (z y : CopNum) (c : CopRegs) :
    (s.setCop z c).cop y = if y = z then c else s.cop y := by
  cases z <;> cases y <;> rfl

theorem State.cop_setCopData_ne (s : State) {z y : CopNum} (hy : y ≠ z) (k : BitVec 5) (v : Word) :
    (s.setCopData z k v).cop y = s.cop y := by
  rw [State.setCopData, State.cop_setCop, if_neg hy]

/-- Reading a data register of a coprocessor after a write. -/
theorem State.copData_setCopData (s : State) (z y : CopNum) (k j : BitVec 5) (v : Word) :
    (s.setCopData z k v).copData y j = if z = y ∧ k = j then v else s.copData y j := by
  by_cases hy : y = z
  · subst hy
    simp only [State.copData, State.setCopData, State.cop_setCop, if_true, Vector.getElem_set, BitVec.toNat_inj, true_and]
  · simp only [State.copData, State.cop_setCopData_ne s hy, Ne.symm hy, false_and, if_false]

/-- A write of a data register leaves the control registers. -/
theorem State.copCtrl_setCopData (s : State) (z y : CopNum) (k j : BitVec 5) (v : Word) :
    (s.setCopData z k v).copCtrl y j = s.copCtrl y j := by
  by_cases hy : y = z
  · subst hy
    simp only [State.copCtrl, State.setCopData, State.cop_setCop, if_true]
  · simp only [State.copCtrl, State.cop_setCopData_ne s hy]

/-- A write of a data register leaves every other register. -/
theorem State.setCopData_special (s : State) (z : CopNum) (k : BitVec 5) (v : Word) :
    SameSpecial s (s.setCopData z k v) ∧ (s.setCopData z k v).atbit = s.atbit := by
  cases z <;> exact ⟨⟨rfl, rfl, rfl⟩, rfl⟩

@[simp] theorem State.advance_cop (s : State) (w : Width) (z : CopNum) : (s.advance w).cop z = s.cop z := by
  cases z <;> rfl

@[simp] theorem State.advance_copData (s : State) (w : Width) (z : CopNum) (k : BitVec 5) :
    (s.advance w).copData z k = s.copData z k := by
  simp only [State.copData, State.advance_cop]

@[simp] theorem State.advance_copCtrl (s : State) (w : Width) (z : CopNum) (k : BitVec 5) :
    (s.advance w).copCtrl z k = s.copCtrl z k := by
  simp only [State.copCtrl, State.advance_cop]

/-- The access of a load leaves the coprocessors. -/
theorem LoadLeaves.cop {s u : State} (h : LoadLeaves s u) (z : CopNum) : u.cop z = s.cop z := by
  obtain ⟨⟨m, b, d, p, rfl⟩, -, -⟩ := h
  cases z <;> rfl

theorem LoadLeaves.copData {s u : State} (h : LoadLeaves s u) (z : CopNum) (k : BitVec 5) :
    u.copData z k = s.copData z k := by
  simp only [State.copData, h.cop]

theorem LoadLeaves.copCtrl {s u : State} (h : LoadLeaves s u) (z : CopNum) (k : BitVec 5) :
    u.copCtrl z k = s.copCtrl z k := by
  simp only [State.copCtrl, h.cop]

theorem exec_ldcOf (z : CopNum) (rd cra : BitVec 5) (imm : BitVec 10) (s : State) :
    exec (ldcOf z rd cra imm) s = copLoad z rd cra imm s := by
  cases z <;> rfl

theorem exec_stcOf (z : CopNum) (rd cra : BitVec 5) (imm : BitVec 10) (s : State) :
    exec (stcOf z rd cra imm) s = copStore z rd cra imm s := by
  cases z <;> rfl

/-- A coprocessor that is usable and present goes on to the access. -/
theorem whenCop_usable {z : CopNum} {s : State} (hu : copBit z s.psr.cu = true) (hp : copBit z s.cfg.copPresent = true)
    (body : Result) : whenCop z s body = body := by
  simp [whenCop, hu, hp]

/-- A coprocessor that is usable, present and reports nothing loads as any load does. -/
theorem copLoad_ready {z : CopNum} {s : State} (h : CopReady s z) (rd cra : BitVec 5) (imm : BitVec 10) :
    copLoad z rd cra imm s =
      loadThen .w32 s (.at (s.copAddr rd imm) 4) none fun v t => t.setCopData z cra v := by
  obtain ⟨hu, hp, hr⟩ := h
  rw [copLoad, whenCop_usable hu hp, State.copReport?, if_neg (by simp [hr])]

/-- A coprocessor that is usable, present and reports nothing stores as any store does. -/
theorem copStore_ready {z : CopNum} {s : State} (h : CopReady s z) (rd cra : BitVec 5) (imm : BitVec 10) :
    copStore z rd cra imm s = storeThen .w32 s (.at (s.copAddr rd imm) 4) (s.copData z cra) none id := by
  obtain ⟨hu, hp, hr⟩ := h
  rw [copStore, whenCop_usable hu hp, State.copReport?, if_neg (by simp [hr])]

/-- What is reported between the address check and the bus is raised (60_exceptions.md R660). -/
theorem State.checkAccess_report {s : State} {k : Access} {x : Acc} (ha : s.addrError k x.addr x.bytes = none) (e : Exc) :
    s.checkAccess k x none (some e) = .exc e := by
  simp [State.checkAccess, ha]

/-- Settles O46: `ldcz` and `stcz` are a load and a store of a word once the coprocessor is ready. -/
theorem copMemory : Obligations.CopMemory := by
  unfold Obligations.CopMemory
  intro s z rd cra imm
  refine ⟨congrArg (s.r rd + ·) (imm10Offset_eq imm), ?ldc, ?stc, ?report⟩
  case ldc =>
    intro hcop ready
    have hl := loadLeaves_afterLoad s (.at (s.copAddr rd imm) 4)
    obtain ⟨⟨hcnt, hlcr, hscr⟩, -, hat⟩ := hl.special
    have hexec := (exec_ldcOf z rd cra imm s).trans ((copLoad_ready hcop rd cra imm).trans (loadThen_ready ready _))
    rw [Acc.at_addr, Acc.at_bytes, State.readMem_four] at hexec
    generalize s.word (s.copAddr rd imm) = v at hexec ⊢
    obtain ⟨⟨hcnt', hlcr', hscr'⟩, hat'⟩ := (s.afterLoad (.at (s.copAddr rd imm) 4)).setCopData_special z cra v
    refine ⟨_, hexec, ?value, ?otherData, ?ctrl, ?otherCop, hl.frame (loadWrites_setCopData _ z cra v) .w32,
      ⟨hcnt'.trans hcnt, hlcr'.trans hlcr, hscr'.trans hscr⟩, hat'.trans hat⟩
    case value => simp [State.copData_setCopData]
    case otherData =>
      intro k hk
      simp [State.copData_setCopData, Ne.symm hk, hl.copData]
    case ctrl =>
      intro k
      simp [State.copCtrl_setCopData, hl.copCtrl]
    case otherCop =>
      intro y hy
      simp [State.cop_setCopData_ne _ hy, hl.cop]
  case stc =>
    intro hcop ready hm
    obtain ⟨-, -, hword⟩ := ready.holds hm (le_refl 4)
    exact ⟨_, (exec_stcOf z rd cra imm s).trans ((copStore_ready hcop rd cra imm).trans (storeThen_ready ready _)),
      hword rfl, ready.frame hm (le_refl 4) (storeWrites_refl _) .w32, ready.special⟩
  case report =>
    intro hu hp hr
    have hrep : s.copReport? z = some (.cpe (copNumber z)) := if_pos hr
    constructor
    · intro hb ha
      have hc : s.checkLoad (.at (s.copAddr rd imm) 4) (some (.cpe (copNumber z))) = .exc (.cpe (copNumber z)) := by
        rw [State.checkLoad, hb, State.checkAccess_report ha]
      rw [exec_ldcOf, copLoad, whenCop_usable hu hp, hrep, loadThen, hc]
      rfl
    · intro hb ha
      have hc : s.checkStore (.at (s.copAddr rd imm) 4) (s.copData z cra) (some (.cpe (copNumber z))) =
          .exc (.cpe (copNumber z)) := by
        rw [State.checkStore, hb, State.checkAccess_report ha]
      rw [exec_stcOf, copStore, whenCop_usable hu hp, hrep, storeThen, hc]
      rfl

/-! ## Load combine (43_load_store.md R389 to R393) -/

/-- `byte` as R389 defines it. -/
theorem State.combineOf_eq (s : State) (ra : BitVec 5) :
    s.combineOf ra = if s.cfg.bigEndian then (s.r ra).toNat % 4 else 3 - (s.r ra).toNat % 4 := by
  simp only [State.combineOf, combineByte, BitVec.toNat_setWidth]

/-- `lcw` and `lce` differ on a word boundary only. -/
theorem exec_lce_of_ne {s : State} {ra : BitVec 5} (h : s.combineOf ra ≠ 0) (rd : BitVec 5) :
    exec (.lce rd ra) s = exec (.lcw rd ra) s :=
  if_neg h

/-- Two writes leave every register but the two. -/
theorem State.setR2_rest (s : State) (i : BitVec 5) (v : Word) (j : BitVec 5) (w : Word) :
    SameSpecial s (s.setR2 i v j w) ∧ SameCops s (s.setR2 i v j w) ∧ (s.setR2 i v j w).atbit = s.atbit ∧
      SameFlags s (s.setR2 i v j w) := by
  obtain ⟨g, k, e⟩ := s.setR2_eq i v j w
  rw [e]
  exact ⟨⟨rfl, rfl, rfl⟩, ⟨rfl, rfl, rfl⟩, rfl, rfl⟩

/-- Settles O32: the aligned word goes to LCR, and the destination takes it combined with the old LCR. -/
theorem loadCombine : Obligations.LoadCombine := by
  unfold Obligations.LoadCombine
  intro s rd ra n wa hn hwa
  obtain rfl : n = s.combineOf ra := hn.trans (s.combineOf_eq ra).symm
  obtain rfl : wa = s.combineWord ra := hwa
  have hl := loadLeaves_afterLoad s (.at (s.combineWord ra) 4)
  obtain ⟨⟨hcnt, -, hscr⟩, ⟨h1, h2, h3⟩, hat⟩ := hl.special
  refine ⟨?lcb, ?lcw, ?aligned⟩
  case lcb =>
    intro ready
    have hexec : exec (.lcb ra) s = loadThen .w32 s (.at (s.combineWord ra) 4) none fun v t =>
        State.setR { t with lcr := v } ra (s.r ra + 4#32) := rfl
    refine ⟨_, hexec.trans (loadThen_ready ready _), s.readMem_four _, ?_, hcnt, hscr, ⟨h1, h2, h3⟩, hat,
      hl.frame (loadWrites_setR _ _ _).of_lcr .w32⟩
    simp
  case lcw =>
    intro i hi ready
    have hexec : exec i s = loadThen .w32 s (.at (s.combineWord ra) 4) none fun v t =>
        State.setR2 { t with lcr := v } rd (combineLoad (s.combineOf ra) s.lcr v) ra (s.r ra + 4#32) := by
      rcases hi with rfl | ⟨rfl, hne⟩
      · rfl
      · exact exec_lce_of_ne hne rd
    replace hexec := hexec.trans (loadThen_ready ready _)
    rw [Acc.at_addr, Acc.at_bytes, State.readMem_four] at hexec
    generalize s.word (s.combineWord ra) = v at hexec ⊢
    have hw := loadWrites_setR2 { s.afterLoad (.at (s.combineWord ra) 4) with lcr := v } rd
      (combineLoad (s.combineOf ra) s.lcr v) ra (s.r ra + 4#32)
    obtain ⟨⟨hcnt', hlcr', hscr'⟩, ⟨h1', h2', h3'⟩, hat', -⟩ :=
      State.setR2_rest { s.afterLoad (.at (s.combineWord ra) 4) with lcr := v } rd
        (combineLoad (s.combineOf ra) s.lcr v) ra (s.r ra + 4#32)
    refine ⟨_, hexec, ?regs, hlcr', hcnt'.trans hcnt, hscr'.trans hscr, ⟨h1'.trans h1, h2'.trans h2, h3'.trans h3⟩,
      hat'.trans hat, hl.frame hw.of_lcr .w32⟩
    case regs =>
      intro hne
      simp [hne, combineLoad]
  case aligned =>
    intro h0
    have hexec : exec (.lce rd ra) s = done .w32 (s.setR2 rd s.lcr ra (s.r ra + 4#32)) := if_pos h0
    have hframe := computeFrame_setR2 s rd s.lcr ra (s.r ra + 4#32) .w32
    refine ⟨_, hexec, ?regs, hframe, ?flags⟩
    case regs =>
      intro hne
      simp [hne]
    case flags => exact (s.setR2_rest _ _ _ _).2.2.2

/-! ## Store combine (43_load_store.md R394 to R397) -/

/-- The bytes of a store in the word at `wa`, from significance `p` on: the word takes them there and keeps the others. -/
theorem StoreReady.getLsbD_word {s : State} {x : Acc} {v : Word} (h : StoreReady s x v) (hm : s.mem.wf = true)
    {wa : Word} {p : Nat} (hp : p + x.bytes ≤ 4)
    (ha : x.addr = wa + BitVec.ofNat 32 (if s.cfg.bigEndian then 4 - p - x.bytes else p)) {i : Nat} (hi : i < 32) :
    ((s.afterStore x v).word wa).getLsbD i =
      if 8 * p ≤ i ∧ i < 8 * (p + x.bytes) then v.getLsbD (i - 8 * p) else (s.word wa).getLsbD i := by
  have hcfg := h.cfg
  rw [State.getLsbD_word _ wa hi, hcfg]
  generalize hbe : s.cfg.bigEndian = be at ha
  split
  · next hin =>
    have hk : (if be then x.bytes - 1 - (i / 8 - p) else i / 8 - p) < (valueBytes s.cfg.bigEndian v x.bytes).length := by
      rw [valueBytes_length]
      split <;> omega
    have haddr : byteAddr be wa (i / 8) =
        x.addr + BitVec.ofNat 32 (if be then x.bytes - 1 - (i / 8 - p) else i / 8 - p) := by
      rw [ha, byteAddr, BitVec.add_assoc, ← BitVec.ofNat_add]
      congr 2
      split <;> omega
    rw [haddr, h.readByte_at hm (by omega) hk, getLsbD_getElem_valueBytes _ _ _ _ _ hk (by omega), hbe]
    congr 1
    split <;> omega
  · next hout =>
    obtain ⟨-, -, hbus, -, hdrseg⟩ := h
    rw [State.getLsbD_word _ wa hi, hbe, State.sameMemBut_afterStore hm x v hbus hdrseg]
    intro k hk heq
    rw [ha, byteAddr, BitVec.add_assoc, ← BitVec.ofNat_add] at heq
    have hnat := congrArg BitVec.toNat ((BitVec.add_right_inj wa).mp heq)
    rw [BitVec.toNat_ofNat, BitVec.toNat_ofNat] at hnat
    cases be <;> simp only [if_true, Bool.false_eq_true, if_false] at hnat <;> omega

/-- `byte` is below four. -/
theorem State.combineOf_le (s : State) (ra : BitVec 5) : s.combineOf ra ≤ 3 := by
  rw [State.combineOf_eq]
  split <;> omega

/-- An address is its word's address and its offset in the word. -/
theorem wordAddr_add_offset (a : Word) : wordAddr a + BitVec.ofNat 32 (a.toNat % 4) = a := by
  have hlow : BitVec.ofNat 32 (a.toNat % 4) = a &&& 3#32 := by
    apply BitVec.eq_of_toNat_eq
    rw [BitVec.toNat_ofNat, BitVec.toNat_and, Nat.mod_eq_of_lt (by omega)]
    exact (Nat.and_two_pow_sub_one_eq_mod a.toNat 2).symm
  have hdisjoint : (a &&& 0xFFFFFFFC#32) &&& (a &&& 3#32) = 0#32 := by
    rw [BitVec.and_comm a 3#32, ← BitVec.and_assoc, BitVec.and_assoc a, show 0xFFFFFFFC#32 &&& 3#32 = 0#32 from rfl]
    simp
  rw [wordAddr, hlow, BitVec.add_eq_or_of_and_eq_zero _ _ hdisjoint, ← BitVec.and_or_distrib_left]
  exact BitVec.and_allOnes

/-- The bits that `byte` bytes leave of a word's mask. -/
theorem getLsbD_mask (k : Nat) {i : Nat} (hi : i < 32) :
    (0xFFFFFFFF#32 >>> k).getLsbD i = decide (i < 32 - k) := by
  rw [BitVec.getLsbD_ushiftRight, show 0xFFFFFFFF#32 = BitVec.allOnes 32 from rfl, BitVec.getLsbD_allOnes]
  exact decide_eq_decide.mpr (by omega)

/-- The word `scw` stores, by masks. -/
theorem combineStore_eq (n : Nat) (old d : Word) :
    combineStore n old d = (old &&& ~~~(0xFFFFFFFF#32 >>> (8 * n))) ||| (d >>> (8 * n)) := by
  apply BitVec.eq_of_getLsbD_eq
  intro i hi
  rw [combineStore, BitVec.getLsbD_or, BitVec.getLsbD_or, BitVec.getLsbD_and, BitVec.getLsbD_not, getLsbD_mask _ hi,
    BitVec.getLsbD_shiftLeft, BitVec.getLsbD_ushiftRight]
  congr 1
  by_cases hlow : i < 32 - 8 * n
  · simp [hlow]
  · simp [hi, hlow, show 32 - 8 * n + (i - (32 - 8 * n)) = i by omega]

/-- The bytes `scb` stores and the ones it leaves, by masks. -/
theorem StoreReady.word_scb {s : State} {ra : BitVec 5} {d : Word}
    (h : StoreReady s (s.scbAccess ra) (d >>> (8 * s.combineOf ra))) (hm : s.mem.wf = true) :
    (s.afterStore (s.scbAccess ra) (d >>> (8 * s.combineOf ra))).word (s.combineWord ra) =
      (s.word (s.combineWord ra) &&& ~~~(0xFFFFFFFF#32 >>> (8 * s.combineOf ra))) ||| (d >>> (8 * s.combineOf ra)) := by
  have hle := s.combineOf_le ra
  have haddr : (s.scbAccess ra).addr =
      s.combineWord ra + BitVec.ofNat 32 (if s.cfg.bigEndian then 4 - 0 - (s.scbAccess ra).bytes else 0) := by
    have hoff := s.combineOf_eq ra
    simp only [State.scbAccess]
    split
    · next hbe =>
      rw [if_pos hbe] at hoff
      rw [show 4 - 0 - (4 - s.combineOf ra) = (s.r ra).toNat % 4 by omega]
      exact (wordAddr_add_offset (s.r ra)).symm
    · exact (BitVec.add_zero _).symm
  have hbytes : (s.scbAccess ra).bytes = 4 - s.combineOf ra := rfl
  apply BitVec.eq_of_getLsbD_eq
  intro i hi
  rw [h.getLsbD_word hm (by omega) haddr hi, hbytes, BitVec.getLsbD_or, BitVec.getLsbD_and, BitVec.getLsbD_not,
    getLsbD_mask _ hi, BitVec.getLsbD_ushiftRight]
  by_cases hlow : i < 32 - 8 * s.combineOf ra
  · rw [if_pos (by omega)]
    simp [hlow]
  · rw [if_neg (by omega)]
    simp [hi, hlow, BitVec.getLsbD_of_ge d (8 * s.combineOf ra + i) (by omega)]

/-- The bytes `sce` stores and the ones it leaves, by masks. -/
theorem StoreReady.word_sce {s : State} {ra : BitVec 5} {c : Word}
    (h : StoreReady s (s.sceAccess ra) (c >>> (32 - 8 * s.combineOf ra))) (hm : s.mem.wf = true) :
    (s.afterStore (s.sceAccess ra) (c >>> (32 - 8 * s.combineOf ra))).word (s.combineWord ra) =
      (c &&& ~~~(0xFFFFFFFF#32 >>> (8 * s.combineOf ra))) |||
        (s.word (s.combineWord ra) &&& (0xFFFFFFFF#32 >>> (8 * s.combineOf ra))) := by
  have hle := s.combineOf_le ra
  have haddr : (s.sceAccess ra).addr = s.combineWord ra +
      BitVec.ofNat 32 (if s.cfg.bigEndian then 4 - (4 - s.combineOf ra) - (s.sceAccess ra).bytes
        else 4 - s.combineOf ra) := by
    have hoff := s.combineOf_eq ra
    simp only [State.sceAccess]
    split
    · rw [show 4 - (4 - s.combineOf ra) - s.combineOf ra = 0 by omega]
      exact (BitVec.add_zero _).symm
    · next hbe =>
      rw [if_neg hbe] at hoff
      rw [show 4 - s.combineOf ra = (s.r ra).toNat % 4 + 1 by omega, BitVec.ofNat_add, ← BitVec.add_assoc]
      exact congrArg (· + 1#32) (wordAddr_add_offset (s.r ra)).symm
  have hbytes : (s.sceAccess ra).bytes = s.combineOf ra := rfl
  apply BitVec.eq_of_getLsbD_eq
  intro i hi
  rw [h.getLsbD_word hm (by omega) haddr hi, hbytes, BitVec.getLsbD_or, BitVec.getLsbD_and, BitVec.getLsbD_and,
    BitVec.getLsbD_not, getLsbD_mask _ hi, BitVec.getLsbD_ushiftRight]
  by_cases hlow : i < 32 - 8 * s.combineOf ra
  · rw [if_neg (by omega)]
    simp [hlow]
  · rw [if_pos (by omega), show 32 - 8 * s.combineOf ra + (i - 8 * (4 - s.combineOf ra)) = i by omega]
    simp [hi, hlow]

/-- Settles O33: the bytes of the word that `scb`, `scw` and `sce` store, SCR and the new base. -/
theorem storeCombine : Obligations.StoreCombine := by
  unfold Obligations.StoreCombine
  intro s rd ra n wa hn hwa hm
  obtain rfl : n = s.combineOf ra := hn.trans (s.combineOf_eq ra).symm
  obtain rfl : wa = s.combineWord ra := hwa
  have hle := s.combineOf_le ra
  refine ⟨?scb, ?scw, ?sce, ?aligned⟩
  case scb =>
    intro ready
    have hexec : exec (.scb rd ra) s = storeThen .w32 s (s.scbAccess ra) (s.r rd >>> (8 * s.combineOf ra)) none fun t =>
        State.setR { t with scr := rotateBytes (s.combineOf ra) (s.r rd) } ra (s.r ra + 4#32) := rfl
    obtain ⟨hcnt, hlcr, -⟩ := ready.special
    have hbytes : (s.scbAccess ra).bytes ≤ 4 := Nat.sub_le 4 _
    refine ⟨_, hexec.trans (storeThen_ready ready _), ready.word_scb hm, rfl, hcnt, hlcr, ?_,
      ready.frame hm hbytes (storeWrites_setR _ _ _).of_scr .w32⟩
    simp
  case scw =>
    intro ready
    rw [← combineStore_eq] at ready ⊢
    have hexec : exec (.scw rd ra) s = storeThen .w32 s (.at (s.combineWord ra) 4)
        (combineStore (s.combineOf ra) s.scr (s.r rd)) none fun t =>
          State.setR { t with scr := rotateBytes (s.combineOf ra) (s.r rd) } ra (s.r ra + 4#32) := rfl
    obtain ⟨hcnt, hlcr, -⟩ := ready.special
    obtain ⟨-, -, hword⟩ := ready.holds hm (le_refl 4)
    refine ⟨_, hexec.trans (storeThen_ready ready _), hword rfl, rfl, hcnt, hlcr, ?_,
      ready.frame hm (le_refl 4) (storeWrites_setR _ _ _).of_scr .w32⟩
    simp
  case sce =>
    intro hne ready
    have hexec : exec (.sce ra) s = storeThen .w32 s (s.sceAccess ra) (s.scr >>> (32 - 8 * s.combineOf ra)) none fun t =>
        t.setR ra (s.r ra + 4#32) := if_neg hne
    have hbytes : (s.sceAccess ra).bytes ≤ 4 := Nat.le_succ_of_le hle
    refine ⟨_, hexec.trans (storeThen_ready ready _), ready.word_sce hm, ?_,
      ready.frame hm hbytes (storeWrites_setR _ _ _) .w32, ready.special⟩
    simp
  case aligned =>
    intro h0
    have hexec : exec (.sce ra) s = done .w32 (s.setR ra (s.r ra + 4#32)) := if_pos h0
    refine ⟨_, hexec, ?_, computeFrame_setR s ra _ .w32, rfl⟩
    simp

/-! ## What every load and store executes

One law for the instructions that `State.dataAccess` lists: each is `loadThen` or `storeThen` of its access, and what it does
after the access is what `State.loadRegs`, `State.storeRegs` and their companions say. -/

/-- What a word load does with its value: `LoadsWord`, whatever its access leaves. -/
def LoadEnds (i : Instr) (s : State) (put : Word → State → State) : Prop :=
  ∀ v u, LoadLeaves s u → LoadsWord i v s ((put v u).advance (encode i).width)

/-- What a store does after its access: the registers of `State.storeRegs`, SCR, and nothing else. -/
structure StoreEnds (i : Instr) (s : State) (put : State → State) : Prop where
  writes : ∀ u, StoreWrites ((s.storeRegs i).map Prod.fst) u (put u)
  regs : ∀ u, ∀ p ∈ s.storeRegs i, (put u).r p.1 = p.2
  state : ∀ u, u.scr = s.scr →
    put u = { (s.storeRegs i).foldl (fun t p => t.setR p.1 p.2) u with scr := s.storeScr i }

/-- An instruction is the load or the store of its access. -/
def AccessForm (s : State) (i : Instr) (d : DataAccess) : Prop :=
  (d.kind = .load ∧ ∃ put, exec i s = loadThen (encode i).width s d.acc none put ∧
    (d.acc.bytes = 4 → LoadEnds i s put)) ∨
  (d.kind = .store ∧ ∃ put, exec i s = storeThen (encode i).width s d.acc d.value none put ∧ StoreEnds i s put)

theorem accessForm_load {s : State} {i : Instr} {d : DataAccess} {x : Acc} {v : Word} {z : Option CopNum}
    {put : Word → State → State} (hd : some ⟨.load, x, v, z⟩ = some d)
    (he : exec i s = loadThen (encode i).width s x none put) (hp : LoadEnds i s put) : AccessForm s i d := by
  obtain rfl := Option.some.inj hd
  exact .inl ⟨rfl, put, he, fun _ => hp⟩

/-- A load of a byte or a halfword into one register is no word load. -/
theorem accessForm_narrow {s : State} {i : Instr} {d : DataAccess} {a : Word} {n : Nat} {rd : BitVec 5}
    {f : Word → Word} (hn : n ≠ 4) (hd : some (.ofLoad a n) = some d)
    (he : exec i s = loadThen (encode i).width s (.at a n) none fun v t => t.setR rd (f v)) : AccessForm s i d := by
  obtain rfl := Option.some.inj hd
  exact .inl ⟨rfl, _, he, fun h => absurd h hn⟩

/-- The same with a new base. -/
theorem accessForm_narrow2 {s : State} {i : Instr} {d : DataAccess} {a : Word} {n : Nat} {rd ra : BitVec 5} {base : Word}
    {f : Word → Word} (hn : n ≠ 4) (hd : some (.ofLoad a n) = some d)
    (he : exec i s = loadThen (encode i).width s (.at a n) none fun v t => t.setR2 rd (f v) ra base) :
    AccessForm s i d := by
  obtain rfl := Option.some.inj hd
  exact .inl ⟨rfl, _, he, fun h => absurd h hn⟩

theorem accessForm_store {s : State} {i : Instr} {d : DataAccess} {x : Acc} {v : Word} {z : Option CopNum}
    {put : State → State} (hd : some ⟨.store, x, v, z⟩ = some d)
    (he : exec i s = storeThen (encode i).width s x v none put) (hp : StoreEnds i s put) : AccessForm s i d := by
  obtain rfl := Option.some.inj hd
  exact .inr ⟨rfl, put, he, hp⟩

/-! ### Word loads -/

/-- A word load that writes general registers, LCR and ATbit. -/
theorem loadsWord_of_writes {i : Instr} {v : Word} {s u t : State} (hl : LoadLeaves s u) (hcop : copDest i = none)
    (hr : SameRegs ((s.loadRegs v i).map Prod.fst) u t)
    (hregs : ((s.loadRegs v i).map Prod.fst).Nodup → ∀ p ∈ s.loadRegs v i, t.r p.1 = p.2)
    {b : Bool} (hat : b = true ↔ s.atbit = true ∨ ∃ rd ra, i = .alw rd ra)
    (ht : ∃ g k, t = { u with gpr := g, lcr := s.loadLcr v i, atbit := b, freeCtr := k }) :
    LoadsWord i v s (t.advance (encode i).width) := by
  obtain ⟨⟨hcnt, -, hscr⟩, -, -⟩ := hl.special
  obtain ⟨g, k, rfl⟩ := ht
  refine ⟨hregs, rfl, hcnt, hscr, hat, ?data, ?ctrl, hl.frame ⟨hr, g, _, b, _, _, _, k, rfl⟩ _⟩
  case data =>
    intro z j
    rw [hcop, if_neg nofun, ← hl.copData z j]
    cases z <;> rfl
  case ctrl =>
    intro z j
    rw [← hl.copCtrl z j]
    cases z <;> rfl

/-- Only `alw` sets ATbit. -/
theorem LoadLeaves.atbit_of_ne {s u : State} (hl : LoadLeaves s u) {i : Instr} (hi : ∀ rd ra, i ≠ .alw rd ra) :
    u.atbit = true ↔ s.atbit = true ∨ ∃ rd ra, i = .alw rd ra := by
  obtain ⟨-, -, hat⟩ := hl.special
  simp [hat, hi]

theorem LoadLeaves.lcr {s u : State} (hl : LoadLeaves s u) : u.lcr = s.lcr := by
  obtain ⟨⟨-, hlcr, -⟩, -, -⟩ := hl.special
  exact hlcr

/-- A word load into one register. -/
theorem loadEnds_setR {i : Instr} {s : State} {rd : BitVec 5} (hregs : ∀ v, s.loadRegs v i = [(rd, v)])
    (hlcr : ∀ v, s.loadLcr v i = s.lcr) (hi : ∀ rd ra, i ≠ .alw rd ra) (hcop : copDest i = none) :
    LoadEnds i s fun v u => u.setR rd v := by
  intro v u hl
  refine loadsWord_of_writes hl hcop ?_ ?_ (hl.atbit_of_ne hi) ⟨(u.setR rd v).gpr, u.freeCtr, ?_⟩
  · rw [hregs]
    exact sameRegs_setR u rd v
  · simp [hregs]
  · rw [hlcr, ← hl.lcr]
    rfl

/-- A word load into one register with a new base in another. -/
theorem loadEnds_setR2 {i : Instr} {s : State} {rd ra : BitVec 5} {base : Word}
    (hregs : ∀ v, s.loadRegs v i = [(rd, v), (ra, base)]) (hlcr : ∀ v, s.loadLcr v i = s.lcr)
    (hi : ∀ rd ra, i ≠ .alw rd ra) (hcop : copDest i = none) : LoadEnds i s fun v u => u.setR2 rd v ra base := by
  intro v u hl
  obtain ⟨g, k, e⟩ := u.setR2_eq rd v ra base
  refine loadsWord_of_writes hl hcop ?_ ?_ (hl.atbit_of_ne hi) ⟨g, k, ?_⟩
  · rw [hregs]
    exact sameRegs_setR2 u rd v ra base
  · rw [hregs]
    intro hne
    have hne : rd ≠ ra := by simpa using hne
    simp [hne]
  · rw [hlcr, ← hl.lcr]
    exact e

theorem loadEnds_lcb (s : State) (ra : BitVec 5) :
    LoadEnds (.lcb ra) s fun v u => State.setR { u with lcr := v } ra (s.r ra + 4#32) := by
  intro v u hl
  refine loadsWord_of_writes hl rfl (sameRegs_setR _ _ _) ?_ (hl.atbit_of_ne nofun) ⟨_, u.freeCtr, rfl⟩
  simp [State.loadRegs]

/-- `lcw` and `lce` leave the word in LCR and the combined word in their destination. -/
theorem loadEnds_combine {i : Instr} {s : State} {rd ra : BitVec 5} (hi : i = .lcw rd ra ∨ i = .lce rd ra) :
    LoadEnds i s fun v u =>
      State.setR2 { u with lcr := v } rd (combineLoad (s.combineOf ra) s.lcr v) ra (s.r ra + 4#32) := by
  intro v u hl
  have hregs : s.loadRegs v i = [(rd, combineLoad (s.combineOf ra) s.lcr v), (ra, s.r ra + 4#32)] := by
    rcases hi with rfl | rfl <;> rfl
  have hlcr : s.loadLcr v i = v := by rcases hi with rfl | rfl <;> rfl
  have hcop : copDest i = none := by rcases hi with rfl | rfl <;> rfl
  have halw : ∀ rd ra, i ≠ .alw rd ra := by rcases hi with rfl | rfl <;> nofun
  obtain ⟨g, k, e⟩ := State.setR2_eq { u with lcr := v } rd (combineLoad (s.combineOf ra) s.lcr v) ra (s.r ra + 4#32)
  refine loadsWord_of_writes hl hcop ?_ ?_ (hl.atbit_of_ne halw) ⟨g, k, ?_⟩
  · rw [hregs]
    exact sameRegs_setR2 { u with lcr := v } _ _ _ _
  · rw [hregs]
    intro hne
    have hne : rd ≠ ra := by simpa using hne
    simp [hne]
  · rw [hlcr]
    exact e

theorem loadEnds_alw (s : State) (rd ra : BitVec 5) :
    LoadEnds (.alw rd ra) s fun v u => State.setR { u with atbit := true } rd v := by
  intro v u hl
  refine loadsWord_of_writes (b := true) hl rfl (sameRegs_setR _ _ _) ?_ (by simp)
    ⟨(u.setR rd v).gpr, u.freeCtr, ?_⟩
  · simp [State.loadRegs]
  · rw [show s.loadLcr v (.alw rd ra) = s.lcr from rfl, ← hl.lcr]
    rfl

/-- `ldcz` writes its coprocessor's data register only. -/
theorem loadEnds_ldcOf (s : State) (z : CopNum) (rd cra : BitVec 5) (imm : BitVec 10) :
    LoadEnds (ldcOf z rd cra imm) s fun v u => u.setCopData z cra v := by
  intro v u hl
  have hregs : s.loadRegs v (ldcOf z rd cra imm) = [] := by cases z <;> rfl
  have hlcr : s.loadLcr v (ldcOf z rd cra imm) = s.lcr := by cases z <;> rfl
  have hdest : copDest (ldcOf z rd cra imm) = some (z, cra) := by cases z <;> rfl
  have halw : ∀ rd' ra, ldcOf z rd cra imm ≠ .alw rd' ra := by cases z <;> nofun
  obtain ⟨⟨hcnt, hlcr', hscr⟩, -, -⟩ := hl.special
  obtain ⟨⟨hcnt', hlcr'', hscr'⟩, hat⟩ := u.setCopData_special z cra v
  refine ⟨?regs, ?lcr, hcnt'.trans hcnt, hscr'.trans hscr, ?atbit, ?data, ?ctrl, ?frame⟩
  case regs => simp [hregs]
  case lcr => exact (hlcr''.trans hlcr').trans hlcr.symm
  case atbit => exact (Bool.eq_iff_iff.mp hat).trans (hl.atbit_of_ne halw)
  case data =>
    intro y k
    rw [hdest, State.advance_copData, State.copData_setCopData, hl.copData]
    simp
  case ctrl =>
    intro y k
    rw [State.advance_copCtrl, State.copCtrl_setCopData, hl.copCtrl]
  case frame =>
    rw [hregs]
    exact hl.frame (loadWrites_setCopData u z cra v) _

/-! ### Stores -/

/-- A store that writes memory only. -/
theorem storeEnds_id {i : Instr} {s : State} (hregs : s.storeRegs i = []) (hscr : s.storeScr i = s.scr) :
    StoreEnds i s id where
  writes u := by
    rw [hregs]
    exact storeWrites_refl u
  regs u := by simp [hregs]
  state u hu := by
    rw [hregs, hscr, ← hu]
    rfl

/-- A store that writes one register too. -/
theorem storeEnds_setR {i : Instr} {s : State} {ra : BitVec 5} {base : Word} (hregs : s.storeRegs i = [(ra, base)])
    (hscr : s.storeScr i = s.scr) : StoreEnds i s fun u => u.setR ra base where
  writes u := by
    rw [hregs]
    exact storeWrites_setR u ra base
  regs u := by simp [hregs]
  state u hu := by
    rw [hregs, hscr, ← hu]
    rfl

/-- A store that writes SCR and one register too. -/
theorem storeEnds_scr {i : Instr} {s : State} {ra : BitVec 5} {base c : Word} (hregs : s.storeRegs i = [(ra, base)])
    (hscr : s.storeScr i = c) : StoreEnds i s fun u => State.setR { u with scr := c } ra base where
  writes u := by
    rw [hregs]
    exact (storeWrites_setR { u with scr := c } ra base).of_scr
  regs u := by simp [hregs]
  state u _ := by
    rw [hregs, hscr]
    rfl

/-! ### The law -/

/-- The coprocessor of an access. -/
theorem copOf_some {k : Access} {x : Acc} {v : Word} {z : Option CopNum} {d : DataAccess}
    (h : some ⟨k, x, v, z⟩ = some d) : d.cop = z := by
  obtain rfl := Option.some.inj h
  rfl

theorem accessForm_ldcOf {s : State} {z : CopNum} {rd cra : BitVec 5} {imm : BitVec 10} {d : DataAccess}
    (h : s.dataAccess (ldcOf z rd cra imm) = some d) (hc : d.copReady s) : AccessForm s (ldcOf z rd cra imm) d := by
  have hd : some ⟨.load, .at (s.copAddr rd imm) 4, 0#32, some z⟩ = some d := by
    rw [← h]
    cases z <;> rfl
  have hw : (encode (ldcOf z rd cra imm)).width = .w32 := by cases z <;> rfl
  have he := (exec_ldcOf z rd cra imm s).trans (copLoad_ready (hc z (copOf_some hd)) rd cra imm)
  exact accessForm_load hd (by rw [hw]; exact he) (loadEnds_ldcOf s z rd cra imm)

theorem accessForm_stcOf {s : State} {z : CopNum} {rd cra : BitVec 5} {imm : BitVec 10} {d : DataAccess}
    (h : s.dataAccess (stcOf z rd cra imm) = some d) (hc : d.copReady s) : AccessForm s (stcOf z rd cra imm) d := by
  have hd : some ⟨.store, .at (s.copAddr rd imm) 4, s.copData z cra, some z⟩ = some d := by
    rw [← h]
    cases z <;> rfl
  have hw : (encode (stcOf z rd cra imm)).width = .w32 := by cases z <;> rfl
  have he := (exec_stcOf z rd cra imm s).trans (copStore_ready (hc z (copOf_some hd)) rd cra imm)
  exact accessForm_store hd (by rw [hw]; exact he)
    (storeEnds_id (by cases z <;> rfl) (by cases z <;> rfl))

/-- Every instruction that accesses memory is the load or the store of its access, once its coprocessor is ready. -/
theorem accessForm_of_dataAccess {s : State} {i : Instr} {d : DataAccess} (h : s.dataAccess i = some d)
    (hc : d.copReady s) : AccessForm s i d := by
  cases i with
  | lw rd ra imm => exact accessForm_load h rfl (loadEnds_setR (fun _ => rfl) (fun _ => rfl) nofun rfl)
  | lwPre rd ra imm => exact accessForm_load h rfl (loadEnds_setR2 (fun _ => rfl) (fun _ => rfl) nofun rfl)
  | lwPost rd ra imm => exact accessForm_load h rfl (loadEnds_setR2 (fun _ => rfl) (fun _ => rfl) nofun rfl)
  | lh rd ra imm => exact accessForm_narrow (by decide) h rfl
  | lhu rd ra imm => exact accessForm_narrow (by decide) h rfl
  | lb rd ra imm => exact accessForm_narrow (by decide) h rfl
  | lbu rd ra imm => exact accessForm_narrow (by decide) h rfl
  | lhPre rd ra imm => exact accessForm_narrow2 (by decide) h rfl
  | lhuPre rd ra imm => exact accessForm_narrow2 (by decide) h rfl
  | lbPre rd ra imm => exact accessForm_narrow2 (by decide) h rfl
  | lbuPre rd ra imm => exact accessForm_narrow2 (by decide) h rfl
  | lhPost rd ra imm => exact accessForm_narrow2 (by decide) h rfl
  | lhuPost rd ra imm => exact accessForm_narrow2 (by decide) h rfl
  | lbPost rd ra imm => exact accessForm_narrow2 (by decide) h rfl
  | lbuPost rd ra imm => exact accessForm_narrow2 (by decide) h rfl
  | lw16 rd ra => exact accessForm_load h rfl (loadEnds_setR (fun _ => rfl) (fun _ => rfl) nofun rfl)
  | lwp16 rd imm => exact accessForm_load h rfl (loadEnds_setR (fun _ => rfl) (fun _ => rfl) nofun rfl)
  | lh16 rd ra => exact accessForm_narrow (by decide) h rfl
  | lbu16 rd ra => exact accessForm_narrow (by decide) h rfl
  | lhp16 rd imm => exact accessForm_narrow (by decide) h rfl
  | lbup16 rd imm => exact accessForm_narrow (by decide) h rfl
  | pop16 rd ra => exact accessForm_load h rfl (loadEnds_setR2 (fun _ => rfl) (fun _ => rfl) nofun rfl)
  | lcb ra => exact accessForm_load h rfl (loadEnds_lcb s ra)
  | lcw rd ra => exact accessForm_load h rfl (loadEnds_combine (.inl rfl))
  | lce rd ra =>
    by_cases h0 : s.combineOf ra = 0
    · exact absurd ((if_pos h0).symm.trans h) nofun
    · exact accessForm_load ((if_neg h0).symm.trans h) (if_neg h0) (loadEnds_combine (.inr rfl))
  | alw rd ra => exact accessForm_load h rfl (loadEnds_alw s rd ra)
  | ldc1 rd cra imm => exact accessForm_ldcOf (z := .cp1) h hc
  | ldc2 rd cra imm => exact accessForm_ldcOf (z := .cp2) h hc
  | ldc3 rd cra imm => exact accessForm_ldcOf (z := .cp3) h hc
  | sw rd ra imm => exact accessForm_store h rfl (storeEnds_id rfl rfl)
  | sh rd ra imm => exact accessForm_store h rfl (storeEnds_id rfl rfl)
  | sb rd ra imm => exact accessForm_store h rfl (storeEnds_id rfl rfl)
  | sw16 rd ra => exact accessForm_store h rfl (storeEnds_id rfl rfl)
  | sh16 rd ra => exact accessForm_store h rfl (storeEnds_id rfl rfl)
  | sb16 rd ra => exact accessForm_store h rfl (storeEnds_id rfl rfl)
  | swp16 rd imm => exact accessForm_store h rfl (storeEnds_id rfl rfl)
  | shp16 rd imm => exact accessForm_store h rfl (storeEnds_id rfl rfl)
  | sbp16 rd imm => exact accessForm_store h rfl (storeEnds_id rfl rfl)
  | swPre rd ra imm => exact accessForm_store h rfl (storeEnds_setR rfl rfl)
  | shPre rd ra imm => exact accessForm_store h rfl (storeEnds_setR rfl rfl)
  | sbPre rd ra imm => exact accessForm_store h rfl (storeEnds_setR rfl rfl)
  | swPost rd ra imm => exact accessForm_store h rfl (storeEnds_setR rfl rfl)
  | shPost rd ra imm => exact accessForm_store h rfl (storeEnds_setR rfl rfl)
  | sbPost rd ra imm => exact accessForm_store h rfl (storeEnds_setR rfl rfl)
  | push16 rd ra => exact accessForm_store h rfl (storeEnds_setR rfl rfl)
  | scb rd ra => exact accessForm_store h rfl (storeEnds_scr rfl rfl)
  | scw rd ra => exact accessForm_store h rfl (storeEnds_scr rfl rfl)
  | sce ra =>
    by_cases h0 : s.combineOf ra = 0
    · exact absurd ((if_pos h0).symm.trans h) nofun
    · exact accessForm_store ((if_neg h0).symm.trans h) (if_neg h0) (storeEnds_setR rfl rfl)
  | asw rd ra =>
    by_cases hat : s.atbit = true
    · exact accessForm_store ((if_pos hat).symm.trans h) (if_pos hat) (storeEnds_setR rfl rfl)
    · exact absurd ((if_neg hat).symm.trans h) nofun
  | stc1 rd cra imm => exact accessForm_stcOf (z := .cp1) h hc
  | stc2 rd cra imm => exact accessForm_stcOf (z := .cp2) h hc
  | stc3 rd cra imm => exact accessForm_stcOf (z := .cp3) h hc
  | _ => cases h

/-! ## The checks of an access (20_memory.md R89, R95, R102, R104) -/

/-- An access that no breakpoint stops answers what its checks answer. -/
theorem AccessForm.exec_eq_onCheck {s : State} {i : Instr} {d : DataAccess} (h : AccessForm s i d) (hw : d.unwatched s) :
    ∃ body, exec i s = onCheck (s.checkAccess d.kind d.acc none none) (encode i).width s body := by
  obtain ⟨hload, hstore⟩ := hw
  rcases h with ⟨hk, put, he, -⟩ | ⟨hk, put, he, -⟩
  · exact ⟨_, by rw [he, loadThen, State.checkLoad, hload hk, hk]⟩
  · exact ⟨_, by rw [he, storeThen, State.checkStore, hstore hk, hk]⟩

/-- An address error is raised. -/
theorem AccessForm.exec_addrError {s : State} {i : Instr} {d : DataAccess} (h : AccessForm s i d) (hw : d.unwatched s)
    {e : Exc} (he : s.addrError d.kind d.acc.addr d.acc.bytes = some e) :
    exec i s = .next (takeException e (encode i).width s) := by
  obtain ⟨body, hexec⟩ := h.exec_eq_onCheck hw
  rw [hexec, State.checkAccess, he]
  rfl

/-- A bus error is raised, but for that of a buffered store. -/
theorem AccessForm.exec_busError {s : State} {i : Instr} {d : DataAccess} (h : AccessForm s i d) (hw : d.unwatched s)
    (ha : s.addrError d.kind d.acc.addr d.acc.bytes = none) (hb : s.busError d.kind d.acc.addr = true)
    (hp : d.kind = .load ∨ s.ccr.wb = false) : exec i s = .next (takeException .buselData (encode i).width s) := by
  obtain ⟨body, hexec⟩ := h.exec_eq_onCheck hw
  have hprecise : ¬ (d.kind = .store && s.ccr.wb) = true := by
    rcases hp with hk | hwb
    · simp [hk]
    · simp [hwb]
  rw [hexec, State.checkAccess, ha]
  simp only [State.busCheck, hb, if_true, if_neg hprecise]
  rfl

/-- What the debug segment does not answer stops. -/
theorem AccessForm.exec_stop {s : State} {i : Instr} {d : DataAccess} (h : AccessForm s i d) (hw : d.unwatched s)
    (ha : s.addrError d.kind d.acc.addr d.acc.bytes = none) (hb : s.busError d.kind d.acc.addr = false) {f : Fault}
    (hf : s.debugSegmentStop d.acc.addr d.acc.bytes = some f) : exec i s = .fault f := by
  obtain ⟨body, hexec⟩ := h.exec_eq_onCheck hw
  rw [hexec, State.checkAccess, ha]
  simp [State.busCheck, hb, hf, onCheck]

/-- No data breakpoint stops an access of debug mode (60_exceptions.md R688). -/
theorem DataAccess.unwatched_of_debug {s : State} (hd : s.dreg.dm = true) (d : DataAccess) : d.unwatched s := by
  refine ⟨fun _ => ?_, fun _ => ?_⟩
  · simp [State.loadBreak, State.ddblaHit, hd]
  · simp [State.storeBreak, State.ddbsHit, hd]

/-! ### Taking an exception -/

theorem takeException_sameRegs (e : Exc) (w : Width) (s : State) : SameRegs [] s (takeException e w s) := by
  intro k _
  unfold takeException
  split <;> rfl

theorem takeException_sameMem (e : Exc) (w : Width) (s : State) : SameMem s (takeException e w s) := by
  intro a
  unfold takeException
  split <;> rfl

/-- Outside debug mode Exc_code and EMA are written. -/
theorem takeException_ecr_ema {s : State} (hd : s.dreg.dm = false) (e : Exc) (w : Width) :
    (takeException e w s).ecr.excCode = e.code ∧ (takeException e w s).ema = e.ema?.getD s.ema := by
  rw [takeException, if_neg (by simp [hd])]
  exact ⟨rfl, rfl⟩

/-! ### Address errors -/

/-- The address error of a data access. -/
theorem addrExc_eq {k : Access} (hk : k = .load ∨ k = .store) (a : Word) :
    addrExc k a = if k = .load then .adelData a else .ades a := by
  rcases hk with rfl | rfl <;> rfl

theorem AccessForm.kind {s : State} {i : Instr} {d : DataAccess} (h : AccessForm s i d) :
    d.kind = .load ∨ d.kind = .store :=
  h.imp And.left And.left

/-- A misaligned or forbidden access raises AdEL or AdES with its address and writes nothing else. -/
theorem AccessForm.completes_addrError {s : State} {i : Instr} {d : DataAccess} (h : AccessForm s i d)
    (hw : d.unwatched s) (he : misaligned d.acc.addr d.acc.bytes = true ∨ s.forbidden d.acc.addr = true) :
    Completes (exec i s) fun t =>
      t = takeException (if d.kind = .load then .adelData d.acc.addr else .ades d.acc.addr) (encode i).width s ∧
      (s.dreg.dm = false →
        t.ecr.excCode = (if d.kind = .load then 11#5 else 12#5) ∧ t.ema = d.acc.addr) ∧
      SameRegs [] s t ∧ SameMem s t := by
  have hexc := addrExc_eq h.kind d.acc.addr
  have herr : s.addrError d.kind d.acc.addr d.acc.bytes = some (addrExc d.kind d.acc.addr) :=
    if_pos (Bool.or_eq_true _ _ ▸ he)
  refine ⟨_, h.exec_addrError hw herr, by rw [hexc], ?_, takeException_sameRegs _ _ s, takeException_sameMem _ _ s⟩
  intro hd
  obtain ⟨hcode, hema⟩ := takeException_ecr_ema hd (addrExc d.kind d.acc.addr) (encode i).width
  rw [hcode, hema]
  rcases h.kind with hk | hk <;> rw [hk] <;> exact ⟨rfl, rfl⟩

/-- Settles O37: the alignment check comes before every other check of an access that no breakpoint stops. -/
theorem misaligned_raises : Obligations.Misaligned := by
  unfold Obligations.Misaligned
  intro s i d hd hc hw hmis
  have h := accessForm_of_dataAccess hd hc
  exact ⟨h.kind, h.completes_addrError hw (.inl ((misaligned_iff _ _).mpr hmis))⟩

/-! ### Ranges and alignment -/

/-- The accesses of user mode to kernel space, and those from outside debug mode to its segment. -/
theorem State.forbidden_iff (s : State) (a : Word) :
    s.forbidden a = true ↔ s.dreg.dm = false ∧ s.psr.umc = true ∧ s.kernelSpace a = true ∨
      s.dreg.dm = false ∧ 0xFF000000 ≤ a.toNat := by
  simp [State.forbidden, State.userMode, debugSegment, and_assoc]

/-- An access to drseg that is not of a word stops. -/
theorem State.debugSegmentStop_drseg_narrow (s : State) {a : Word} {n : Nat} (ha : 0xFFFF0000 ≤ a.toNat) (hn : n ≠ 4) :
    s.debugSegmentStop a n = some .drsegAccess := by
  simp [State.debugSegmentStop, inDrseg, ha, hn]

/-- An access to the unassigned part of the debug segment stops. -/
theorem State.debugSegmentStop_unassigned (s : State) {a : Word} (n : Nat) (hlow : 0xFFF00000 ≤ a.toNat)
    (hhigh : a.toNat < 0xFFFF0000) : s.debugSegmentStop a n = some .unassignedDebugAddress := by
  have hdrseg : inDrseg a = false := decide_eq_false (by omega)
  have hdmseg : inDmseg a = false := by
    simp [inDmseg, hlow]
  have hseg : debugSegment a = true := decide_eq_true (by omega)
  simp [State.debugSegmentStop, hdrseg, hdmseg, hseg]

/-- An access to dmseg without a probe stops. -/
theorem State.debugSegmentStop_noProbe {s : State} {a : Word} (n : Nat) (hlow : 0xFF000000 ≤ a.toNat)
    (hhigh : a.toNat < 0xFFF00000) (hp : s.cfg.probeEn = false) : s.debugSegmentStop a n = some .noProbe := by
  have hdrseg : inDrseg a = false := decide_eq_false (by omega)
  have hdmseg : inDmseg a = true := by simp [inDmseg, hlow, hhigh]
  simp [State.debugSegmentStop, hdrseg, hdmseg, hp]

theorem wordAddr_mod_four (a : Word) : (wordAddr a).toNat % 4 = 0 := by
  rw [wordAddr, BitVec.toNat_and]
  exact (Nat.and_mod_two_pow (n := 2)).trans (Nat.and_zero _)

theorem misaligned_word (a : Word) : misaligned (wordAddr a) 4 = false := by
  simp [← Bool.not_eq_true, misaligned_iff, wordAddr_mod_four]

/-- What `scb` stores at the address is to the end of its word. -/
theorem State.misaligned_scb (s : State) (ra : BitVec 5) :
    misaligned (s.scbAccess ra).addr (s.scbAccess ra).bytes = false := by
  have hword := wordAddr_mod_four (s.r ra)
  have hoff := s.combineOf_eq ra
  rw [← Bool.not_eq_true, misaligned_iff]
  simp only [State.scbAccess, State.combineWord]
  cases hbe : s.cfg.bigEndian <;> simp only [hbe, if_true, Bool.false_eq_true, if_false] at hoff ⊢ <;> omega

/-- What `sce` stores is the rest of the word. -/
theorem State.misaligned_sce (s : State) (ra : BitVec 5) :
    misaligned (s.sceAccess ra).addr (s.sceAccess ra).bytes = false := by
  have hword := wordAddr_mod_four (s.r ra)
  have hoff := s.combineOf_eq ra
  have hnext : (s.r ra + 1#32).toNat % 4 = ((s.r ra).toNat + 1) % 4 := by
    rw [BitVec.toNat_add, BitVec.toNat_ofNat]
    omega
  rw [← Bool.not_eq_true, misaligned_iff]
  simp only [State.sceAccess, State.combineWord]
  cases hbe : s.cfg.bigEndian <;> simp only [hbe, if_true, Bool.false_eq_true, if_false] at hoff ⊢ <;> omega

theorem accOf_some {k : Access} {x : Acc} {v : Word} {z : Option CopNum} {d : DataAccess}
    (h : some ⟨k, x, v, z⟩ = some d) : d.acc = x := by
  obtain rfl := Option.some.inj h
  rfl

/-- The accesses of the combining loads and stores. -/
theorem combine_acc {s : State} {i : Instr} {d : DataAccess} {rd ra : BitVec 5} (hd : s.dataAccess i = some d)
    (hi : i = .lcb ra ∨ i = .lcw rd ra ∨ i = .lce rd ra ∨ i = .scb rd ra ∨ i = .scw rd ra ∨ i = .sce ra) :
    d.acc = .at (s.combineWord ra) 4 ∨ d.acc = s.scbAccess ra ∨ d.acc = s.sceAccess ra := by
  rcases hi with rfl | rfl | rfl | rfl | rfl | rfl
  · exact .inl (accOf_some hd)
  · exact .inl (accOf_some hd)
  · exact .inl (accOf_some (Option.ite_none_left_eq_some.mp hd).2)
  · exact .inr (.inl (accOf_some hd))
  · exact .inl (accOf_some hd)
  · exact .inr (.inr (accOf_some (Option.ite_none_left_eq_some.mp hd).2))

/-- The combining loads and stores are never misaligned (43_load_store.md R389). -/
theorem misaligned_combine {s : State} {i : Instr} {d : DataAccess} {rd ra : BitVec 5} (hd : s.dataAccess i = some d)
    (hi : i = .lcb ra ∨ i = .lcw rd ra ∨ i = .lce rd ra ∨ i = .scb rd ra ∨ i = .scw rd ra ∨ i = .sce ra) :
    misaligned d.acc.addr d.acc.bytes = false := by
  rcases combine_acc hd hi with h | h | h <;> rw [h]
  · exact misaligned_word _
  · exact s.misaligned_scb ra
  · exact s.misaligned_sce ra

/-- Settles O38: the range check is the second of every access, and the debug segment is asked last. -/
theorem forbiddenAccess : Obligations.ForbiddenAccess := by
  unfold Obligations.ForbiddenAccess
  intro s i d hd
  refine ⟨?range, ?debug, ?combine⟩
  case range =>
    intro hc hw hrange
    have h := accessForm_of_dataAccess hd hc
    have hdm : s.dreg.dm = false := hrange.elim And.left And.left
    obtain ⟨t, hexec, ht, hecr, hregs, hmem⟩ := h.completes_addrError hw (.inr ((s.forbidden_iff _).mpr hrange))
    obtain ⟨hcode, hema⟩ := hecr hdm
    exact ⟨t, hexec, ht, hcode, hema, hregs, hmem⟩
  case debug =>
    intro hc hdm ha hb
    have stop := fun {f} => (accessForm_of_dataAccess hd hc).exec_stop (f := f) (d.unwatched_of_debug hdm) ha hb
    exact ⟨fun hlow hn => stop (s.debugSegmentStop_drseg_narrow hlow hn),
      fun hlow hhigh => stop (s.debugSegmentStop_unassigned _ hlow hhigh),
      fun hlow hhigh hp => stop (State.debugSegmentStop_noProbe _ hlow hhigh hp)⟩
  case combine =>
    rintro ⟨rd, ra, hi⟩
    have hmis := misaligned_combine hd hi
    rw [← Bool.not_eq_true, misaligned_iff] at hmis
    exact not_or.mp hmis

/-! ### Bus errors -/

/-- Settles O39: a buffered store goes on without its data, its error pending (60_exceptions.md R636, R702). -/
theorem busErrors : Obligations.BusErrors := by
  unfold Obligations.BusErrors
  intro s i d hd hc hw ha hb
  have h := accessForm_of_dataAccess hd hc
  refine ⟨h.exec_busError hw ha hb, ?buffered⟩
  case buffered =>
    intro hk hwb
    obtain ⟨-, hbreak⟩ := hw
    rw [hk] at ha hb
    obtain ⟨hload, -⟩ | ⟨-, put, hexec, ends⟩ := h
    · exact absurd (hload.symm.trans hk) nofun
    · have hcheck : s.checkStore d.acc d.value none = .ok := by
        rw [State.checkStore, hbreak hk]
        simp [State.checkAccess, ha, State.busCheck, hb, hwb]
      have hafter : s.afterStore d.acc d.value = { s with busErrPending := true } := if_pos hb
      have hscr := congrArg State.scr (ends.state { s with busErrPending := true } rfl)
      have hregs := ends.regs { s with busErrPending := true }
      obtain ⟨hsame, g, c, hput⟩ := ends.writes { s with busErrPending := true }
      rw [storeThen, hcheck, hafter] at hexec
      rw [hput] at hexec hscr hregs hsame
      exact ⟨_, hexec, rfl, hregs, hsame, hscr, rfl, rfl, fun _ => rfl, ⟨rfl, rfl⟩, rfl, ⟨rfl, rfl⟩, rfl,
        ⟨rfl, rfl, rfl, rfl, rfl, rfl, rfl, rfl⟩, ⟨rfl, rfl, rfl, rfl, rfl⟩, ⟨rfl, rfl, rfl⟩, rfl, rfl, rfl, rfl⟩

/-! ### The registers of drseg -/

/-- A load that waits for the write buffer leaves what any load leaves. -/
theorem loadLeaves_waitDrain (s : State) : LoadLeaves s s.waitDrain := by
  obtain ⟨m, b, e⟩ := s.waitDrain_eq
  refine ⟨⟨m, b, s.dcache, s.ddblvPending, e⟩, fun _ => s.sameMem_waitDrain, ?buffer⟩
  case buffer =>
    unfold LoadBuffer State.waitDrain
    split
    · exact ⟨rfl, .inl ⟨⟨rfl, rfl⟩, fun l hl _ => hl⟩⟩
    · exact .inl ⟨⟨rfl, rfl⟩, fun l hl _ => hl⟩

/-- A store to drseg changes the breakpoints only. -/
theorem DrsegStored.fields {s t : State} {a v : Word} (h : DrsegStored s a v t) :
    ∃ ib db, t = { s with ibrk := ib, dbrk := db } := by
  rcases h with ⟨-, rfl⟩ | ⟨n, f, -, -, rfl, -⟩ | ⟨n, f, -, -, rfl, -⟩
  · exact ⟨t.ibrk, t.dbrk, rfl⟩
  · exact ⟨_, s.dbrk, rfl⟩
  · exact ⟨s.ibrk, _, rfl⟩

/-- What a store leaves after one to drseg. -/
theorem StoreEnds.advance_drseg {i : Instr} {s t : State} {put : State → State} (h : StoreEnds i s put)
    (ht : ∃ ib db, t = { s with ibrk := ib, dbrk := db }) :
    (put t).advance (encode i).width = s.storeEnd i t := by
  obtain ⟨-, g, c, hput⟩ := h.writes t
  obtain ⟨ib, db, ht⟩ := ht
  have hscr : t.scr = s.scr := by rw [ht]
  have hnpc : (put t).npc (encode i).width = s.npc (encode i).width := by
    rw [hput, ht]
    cases (encode i).width <;> rfl
  rw [State.advance, hnpc, h.state t hscr, State.storeEnd]

/-- Settles O47: in debug mode the checks of a word access let through the listed registers of drseg and nothing else there. -/
theorem breakpointRegisters : Obligations.BreakpointRegisters := by
  unfold Obligations.BreakpointRegisters
  intro s i x hdm hd hc hx hb
  have h := accessForm_of_dataAccess hd hc
  refine ⟨?loads, ?stores, ?unlisted⟩
  case loads =>
    intro v hk hv
    obtain ⟨-, put, hexec, ends⟩ | ⟨hstore, -⟩ := h
    · exact ⟨_, hexec.trans (loadThen_drseg hdm hx (hk ▸ hb) hv _ put), ends hx v _ (loadLeaves_waitDrain s)⟩
    · exact absurd (hk.symm.trans hstore) nofun
  case stores =>
    intro u hk hu
    obtain ⟨hload, -⟩ | ⟨-, put, hexec, ends⟩ := h
    · exact absurd (hload.symm.trans hk) nofun
    · rw [hexec, storeThen_drseg hdm hx (hk ▸ hb) hu, ends.advance_drseg hu.fields]
  case unlisted =>
    intro halign hlow hnone
    have ha := State.addrError_word hdm halign x.kind
    rw [← hx] at ha
    exact h.exec_stop (x.unwatched_of_debug hdm) ha hb (hx ▸ State.debugSegmentStop_unlisted hlow hnone)

end Sys2Proof.Machine

namespace Sys2Proof

/-! ## Adjacent fields (30_encoding.md R157, R162, R164) -/

/-- A field that ends where another begins is the high part of one field. -/
theorem extract_split {n : Nat} (w : BitVec n) (st l k : Nat) :
    w.extractLsb' st (k + l) = w.extractLsb' (st + l) k ++ w.extractLsb' st l :=
  (BitVec.extractLsb'_append_extractLsb'_eq_extractLsb' rfl).symm

/-- The registers of an instruction are adjacent. -/
theorem extract_fD_fA (w : BitVec 30) : w.extractLsb' 15 10 = fD w ++ fA w := extract_split w 15 5 5

/-- The operands of a Special-form instruction are adjacent. -/
theorem extract_operands (w : BitVec 30) : w.extractLsb' 10 15 = fD w ++ fA w ++ fB w := by
  rw [← extract_fD_fA]
  exact extract_split w 10 5 10

/-- Above CR_OP a CR-form instruction holds two registers and seven more bits. -/
theorem extract_above_crOp (w : BitVec 30) : w.extractLsb' 8 17 = fD w ++ fA w ++ w.extractLsb' 8 7 := by
  rw [← extract_fD_fA]
  exact extract_split w 8 7 10

theorem extract_hD_hA (h : BitVec 15) : h.extractLsb' 4 8 = hD h ++ hA h := extract_split h 4 4 4

/-- A bit of a vector is the only bit of a field of width one. -/
theorem getLsbD_eq_extract {n : Nat} (w : BitVec n) (k : Nat) : w.getLsbD k = (w.extractLsb' k 1).getLsbD 0 := by simp

/-! ## Fields of the forms that Laws/Encoding.lean does not list -/

@[simp] theorem syscallForm_zero3 (p : BitVec 15) : (syscallForm p).extractLsb' 7 3 = 0#3 := by
  show BitVec.extractLsb' (n := 5 + 15 + 3 + 6 + 1) 7 3 (0#5 ++ p ++ 0#3 ++ 1#6 ++ 0#1) = _
  simp (disch := omega) only [extract_append_high, extract_append_low, extract_all, Nat.reduceSub]

@[simp] theorem crform_zero7 (d a : BitVec 5) (o : BitVec 3) (i m : BitVec 1) :
    (crform d a o i m).extractLsb' 8 7 = 0#7 := by
  show BitVec.extractLsb' (n := 5 + 5 + 5 + 7 + 3 + 2 + 1 + 1 + 1) 8 7
    (6#5 ++ d ++ a ++ 0#7 ++ o ++ 0#2 ++ i ++ 0#1 ++ m) = _
  simp (disch := omega) only [extract_append_high, extract_append_low, extract_all, Nat.reduceSub]

@[simp] theorem crform_zero1 (d a : BitVec 5) (o : BitVec 3) (i m : BitVec 1) :
    (crform d a o i m).extractLsb' 1 1 = 0#1 := by
  show BitVec.extractLsb' (n := 5 + 5 + 5 + 7 + 3 + 2 + 1 + 1 + 1) 1 1
    (6#5 ++ d ++ a ++ 0#7 ++ o ++ 0#2 ++ i ++ 0#1 ++ m) = _
  simp (disch := omega) only [extract_append_high, extract_append_low, extract_all, Nat.reduceSub]

theorem crform_mi (d a : BitVec 5) (o : BitVec 3) (i m : BitVec 1) : (crform d a o i m).extractLsb' 0 1 = m := by
  show BitVec.extractLsb' (n := 5 + 5 + 5 + 7 + 3 + 2 + 1 + 1 + 1) 0 1
    (6#5 ++ d ++ a ++ 0#7 ++ o ++ 0#2 ++ i ++ 0#1 ++ m) = _
  simp (disch := omega) only [extract_append_low, extract_all]

@[simp] theorem crform_low2 (d a : BitVec 5) (o : BitVec 3) (i m : BitVec 1) :
    (crform d a o i m).extractLsb' 0 2 = 0#1 ++ m := by
  rw [extract_split _ 0 1 1, crform_mi, crform_zero1]

/-- Bit 2 tells the instructions of R184 without operands from `mtcr` and `mfcr`. -/
@[simp] theorem crform_bit2 (d a : BitVec 5) (o : BitVec 3) (i m : BitVec 1) :
    (crform d a o i m)[2] = i[0] := by
  rw [← BitVec.getLsbD_eq_getElem, ← BitVec.getLsbD_eq_getElem, getLsbD_eq_extract]
  show (BitVec.extractLsb' (n := 5 + 5 + 5 + 7 + 3 + 2 + 1 + 1 + 1) 2 1
    (6#5 ++ d ++ a ++ 0#7 ++ o ++ 0#2 ++ i ++ 0#1 ++ m)).getLsbD 0 = _
  simp (disch := omega) only [extract_append_high, extract_append_low, extract_all, Nat.reduceSub]

/-- `cop` holds two registers where `ldc` and `stc` hold Imm10. -/
@[simp] theorem copform_fB (d a b e : BitVec 5) (z : BitVec 2) (f : BitVec 3) : fB (copform d a (b ++ e) z f) = b := by
  show BitVec.extractLsb' (n := 5 + 5 + 5 + 10 + 2 + 3) 10 5 (6#5 ++ d ++ a ++ (b ++ e) ++ z ++ f) = _
  simp (disch := omega) only [extract_append_high, extract_append_low, extract_all, Nat.reduceSub]

@[simp] theorem copform_fE (d a b e : BitVec 5) (z : BitVec 2) (f : BitVec 3) : fE (copform d a (b ++ e) z f) = e := by
  show BitVec.extractLsb' (n := 5 + 5 + 5 + 10 + 2 + 3) 5 5 (6#5 ++ d ++ a ++ (b ++ e) ++ z ++ f) = _
  simp (disch := omega) only [extract_append_high, extract_append_low, extract_all, Nat.reduceSub]

@[simp] theorem bcform_fOp (c : Cond) (x : BitVec 19) (l : BitVec 1) : fOp (bcform c x l) = 4#5 := by
  show BitVec.extractLsb' (n := 5 + 10 + 1 + 4 + 9 + 1) 25 5
    (4#5 ++ x.extractLsb' 9 10 ++ 0#1 ++ c.toBits ++ x.extractLsb' 0 9 ++ l) = _
  simp (disch := omega) only [extract_append_high, extract_all, Nat.reduceSub]

@[simp] theorem bcform_fCond (c : Cond) (x : BitVec 19) (l : BitVec 1) : fCond (bcform c x l) = c := by
  show Cond.ofBits (BitVec.extractLsb' (n := 5 + 10 + 1 + 4 + 9 + 1) 10 4
    (4#5 ++ x.extractLsb' 9 10 ++ 0#1 ++ c.toBits ++ x.extractLsb' 0 9 ++ l)) = _
  simp (disch := omega) only [extract_append_high, extract_append_low, extract_all, Nat.reduceSub, Cond.ofBits_toBits]

@[simp] theorem bcform_fDisp19 (c : Cond) (x : BitVec 19) (l : BitVec 1) : fDisp19 (bcform c x l) = x := by
  show BitVec.extractLsb' (n := 5 + 10 + 1 + 4 + 9 + 1) 15 10
      (4#5 ++ x.extractLsb' 9 10 ++ 0#1 ++ c.toBits ++ x.extractLsb' 0 9 ++ l) ++
    BitVec.extractLsb' (n := 5 + 10 + 1 + 4 + 9 + 1) 1 9
      (4#5 ++ x.extractLsb' 9 10 ++ 0#1 ++ c.toBits ++ x.extractLsb' 0 9 ++ l) = x
  simp (disch := omega) only [extract_append_high, extract_append_low, extract_all, Nat.reduceSub]
  exact (extract_split x 0 9 10).symm.trans (extract_all x)

@[simp] theorem bcform_fCu (c : Cond) (x : BitVec 19) (l : BitVec 1) : fCu (bcform c x l) = l.getLsbD 0 := by
  rw [fCu, getLsbD_zero_extract]
  show (BitVec.extractLsb' (n := 5 + 10 + 1 + 4 + 9 + 1) 0 1
    (4#5 ++ x.extractLsb' 9 10 ++ 0#1 ++ c.toBits ++ x.extractLsb' 0 9 ++ l)).getLsbD 0 = _
  simp (disch := omega) only [extract_append_low, extract_all]

/-- `addei!` and `subei!` hold a bit and Exp4 where the other instructions of OP 110 hold five bits. -/
@[simp] theorem iform16_hExp (o : BitVec 3) (d : BitVec 4) (b : BitVec 1) (e : BitVec 4) (f : BitVec 3) :
    hExp (iform16 o d (b ++ e) f) = e := by
  show BitVec.extractLsb' (n := 3 + 4 + 5 + 3) 3 4 (o ++ d ++ (b ++ e) ++ f) = _
  simp (disch := omega) only [extract_append_high, extract_append_low, extract_all, Nat.reduceSub]

@[simp] theorem iform16_bit7 (o : BitVec 3) (d : BitVec 4) (b : BitVec 1) (e : BitVec 4) (f : BitVec 3) :
    (iform16 o d (b ++ e) f)[7] = b[0] := by
  rw [← BitVec.getLsbD_eq_getElem, ← BitVec.getLsbD_eq_getElem, getLsbD_eq_extract]
  show (BitVec.extractLsb' (n := 3 + 4 + 5 + 3) 7 1 (o ++ d ++ (b ++ e) ++ f)).getLsbD 0 = _
  simp (disch := omega) only [extract_append_high, extract_append_low, extract_all, Nat.reduceSub]

/-! ## The small codes in their fields -/

@[simp] theorem bit_getElem (b : Bool) : (bit b)[0] = b := by cases b <;> decide

@[simp] theorem tc_above_field (c : TestCond) : (0#3 ++ c.toBits).extractLsb' 2 3 = 0#3 := by cases c <;> decide

/-! ## The decoder on the formats of the encoder -/

@[simp] theorem needZero_zero {n : Nat} (i : Instr) : needZero (0#n) i = .ok i := if_pos rfl

/-- An encoding with the constant CU bit passes that check. -/
theorem needCu_of_eq {w : BitVec 30} {c : Bool} (h : fCu w = c) (r : Except Reject Instr) : needCu w c r = r := if_pos h

@[simp] theorem decode_special (d a b : BitVec 5) (f : BitVec 6) (c : BitVec 1) :
    decode (.w32 (special d a b f c)) = decodeSpecialFunc (special d a b f c) := by
  simp [decode, decode32, decodeSpecial]

@[simp] theorem decode_syscallForm (p : BitVec 15) : decode (.w32 (syscallForm p)) = .ok (.syscall p) := by
  simp [decode, decode32, decodeSpecial, decodeSpecialFunc, needCu_of_eq]

@[simp] theorem decode_iform1 (d : BitVec 5) (f : BitVec 3) (x : BitVec 16) (c : BitVec 1) :
    decode (.w32 (iform 1#5 d f x c)) = decodeIForm1 (iform 1#5 d f x c) := by
  simp [decode, decode32]

@[simp] theorem decode_iform2 (d : BitVec 5) (f : BitVec 3) (x : BitVec 16) (c : BitVec 1) :
    decode (.w32 (iform 5#5 d f x c)) = decodeIForm2 (iform 5#5 d f x c) := by
  simp [decode, decode32]

@[simp] theorem decode_jform (x : BitVec 24) (c : BitVec 1) :
    decode (.w32 (jform x c)) = .ok (if c.getLsbD 0 then .jl x else .j x) := by
  simp [decode, decode32]

@[simp] theorem decode_bcform (k : Cond) (x : BitVec 19) (c : BitVec 1) :
    decode (.w32 (bcform k x c)) = .ok (if c.getLsbD 0 then .bcondl k x else .bcond k x) := by
  simp [decode, decode32]

@[simp] theorem decode_preIndex (d a : BitVec 5) (x : BitVec 12) (f : BitVec 3) :
    decode (.w32 (rixform 3#5 d a x f)) = decodePreIndex (rixform 3#5 d a x f) := by
  simp [decode, decode32]

@[simp] theorem decode_postIndex (d a : BitVec 5) (x : BitVec 12) (f : BitVec 3) :
    decode (.w32 (rixform 7#5 d a x f)) = decodePostIndex (rixform 7#5 d a x f) := by
  simp [decode, decode32]

@[simp] theorem decode_crform (d a : BitVec 5) (o : BitVec 3) (i m : BitVec 1) :
    decode (.w32 (crform d a o i m)) = decodeCrForm (crform d a o i m) := by
  simp [decode, decode32, decodeCrCop]

/-- The coprocessor forms have one opcode, and CP# names the coprocessor. -/
@[simp] theorem decode_copform (d a : BitVec 5) (x : BitVec 10) (z : BitVec 2) (f : BitVec 3) :
    decode (.w32 (copform d a x z f)) = decodeCrCop (copform d a x z f) := by
  simp [decode, decode32]

@[simp] theorem decode_jform16 (x : BitVec 11) (c : BitVec 1) :
    decode (.w16 (jform16 x c)) = .ok (if c.getLsbD 0 then .jl16 x else .j16 x) := by
  simp only [decode, decode16, jform16_hOp, jform16_lk, jform16_hDisp11]
  rfl

/-! ## Decoding an encoded instruction -/

/-- The Special-form (R157), lower half of its map (R181): func6 names the instruction and the fields give the operands
back. -/
theorem decode_encode_of_special_low {i : Instr} {w : BitVec 30} (h : encode i = .w32 w) (hop : fOp w = 0#5)
    (hfunc : (fFunc6 w).toNat < 32) : decode (encode i) = .ok i := by
  cases i
  -- a CU operand
  case add | addc | sub | subc | neg | and | or | not | xor | sll | srl | sra | ror | rol => simp [encode, decodeSpecialFunc]
  -- a constant CU bit (R154), and zeros for the operands it does not have (R153)
  case trapcond | sdbbp | brcond | brcondl | alw | asw | cmp | cmpz | bitclr | bitset | bittst | bittgl | rorc | rolc =>
    simp [encode, decodeSpecialFunc, needCu_of_eq]
  case nop | pflush => simp [encode, decodeSpecialFunc, needCu_of_eq, extract_operands]
  case syscall => simp [encode]
  all_goals cases h
  all_goals simp at hop hfunc

/-- The Special-form, upper half of its map. -/
theorem decode_encode_of_special_high {i : Instr} {w : BitVec 30} (h : encode i = .w32 w) (hop : fOp w = 0#5)
    (hfunc : ¬ (fFunc6 w).toNat < 32) : decode (encode i) = .ok i := by
  cases i
  case extsb | extsh | extzb | extzh | slli | srli | srai | rori | roli => simp [encode, decodeSpecialFunc]
  case mul | mulu | div | divu | mfcel | mfceh | mfcehl | mtcel | mtceh | mtcehl | mfsr | mtsr | mvcond | lcb | lcw | lce |
      scb | scw | sce | roric | rolic => simp [encode, decodeSpecialFunc, needCu_of_eq]
  case tcond => simp [encode, decodeSpecialFunc, needCu_of_eq, extract_fD_fA]
  all_goals cases h
  all_goals simp at hop hfunc

/-- The other 32-bit formats: the opcode leads to a map or names the instruction. -/
theorem decode_encode_of_w32 {i : Instr} {w : BitVec 30} (h : encode i = .w32 w) (hop : fOp w ≠ 0#5) :
    decode (encode i) = .ok i := by
  cases i
  -- I-form-1 and I-form-2 (R158, R182)
  case addi | andi | ori | cmpi | ldi => simp [encode, decodeIForm1, needCu_of_eq]
  case addis | andis | oris | ldis => simp [encode, decodeIForm2, needCu_of_eq]
  -- J-form and BC-form (R155, R156)
  case j | jl | bcond | bcondl => simp [encode]
  -- the forms with an opcode for each instruction (R159, R160, R163)
  case addri | andri | orri | lw | lh | lhu | lb | lbu | sw | sh | sb | cache | ceinst => simp [encode, decode, decode32]
  -- RIX-form (R161, R183)
  case lwPre | lhPre | lhuPre | lbPre | lbuPre | swPre | shPre | sbPre => simp [encode, decodePreIndex]
  case lwPost | lhPost | lhuPost | lbPost | lbuPost | swPost | shPost | sbPost => simp [encode, decodePostIndex]
  -- CR-form and the coprocessor forms (R162, R184)
  case mtcr | mfcr => simp [encode, decodeCrForm]
  case rte | drte | sleep | stlb | mftlb | mtptlb | mtrtlb => simp [encode, decodeCrForm, extract_above_crOp]
  case mtc1 | mfc1 | mtcc1 | mfcc1 | ldc1 | stc1 | cop1 => simp [encode, decodeCrCop, decodeCop1]
  case mtc2 | mfc2 | mtcc2 | mfcc2 | ldc2 | stc2 | cop2 => simp [encode, decodeCrCop, decodeCop2]
  case mtc3 | mfc3 | mtcc3 | mfcc3 | ldc3 | stc3 | cop3 => simp [encode, decodeCrCop, decodeCop3]
  all_goals cases h
  all_goals simp at hop

/-- The 16-bit formats (R164). -/
theorem decode_encode_of_w16 {i : Instr} {x : BitVec 15} (h : encode i = .w16 x) : decode (encode i) = .ok i := by
  cases i
  -- R-forms (R186)
  case addc16 | mv16 | sll16 | srl16 | sra16 | mhfl16 | mlfh16 => simp [encode, decode, decode16, decodeRForm1]
  case tcond16 | brcond16 | brcondl16 => simp [encode, decode, decode16, decodeRForm1, hCond]
  case nop16 => simp [encode, decode, decode16, decodeRForm1, extract_hD_hA]
  case add16 | sub16 | cmp16 | neg16 | and16 | or16 | xor16 | not16 | lw16 | lh16 | lbu16 | sw16 | sh16 | sb16 | push16 |
      pop16 => simp [encode, decode, decode16, decodeRForm2]
  -- I-forms, BC-form and J-form (R187)
  case addei16 | subei16 | bitclr16 | bitset16 | bittgl16 | bittst16 | slli16 | srli16 | sdbbp16 =>
    simp [encode, decode, decode16, decodeIForm1a]
  case lwp16 | lhp16 | lbup16 | swp16 | shp16 | sbp16 => simp [encode, decode, decode16, decodeIForm1b]
  case ldiu16 => simp [encode, decode, decode16]
  case bcond16 => simp [encode, decode, decode16, hCond]
  case j16 | jl16 => simp [encode]
  all_goals cases h

/-- Settles O1, by the formats: Special-form, the other 32-bit formats, the 16-bit formats. -/
theorem decodeEncode : Obligations.DecodeEncode := by
  unfold Obligations.DecodeEncode
  intro i
  cases h : encode i with
  | w32 w =>
    rw [← h]
    by_cases hop : fOp w = 0#5
    · by_cases hfunc : (fFunc6 w).toNat < 32
      · exact decode_encode_of_special_low h hop hfunc
      · exact decode_encode_of_special_high h hop hfunc
    · exact decode_encode_of_w32 h hop
  | w16 x =>
    rw [← h]
    exact decode_encode_of_w16 h

end Sys2Proof

namespace Sys2Proof

/-! ## The format of a word by its P-bits (30_encoding.md R141) -/

theorem wordFormat_single {w : Word} (h31 : w.getLsbD 31 = true) (h15 : w.getLsbD 15 = true) :
    wordFormat w = .single (w.extractLsb' 16 15 ++ w.extractLsb' 0 15) := by
  simp only [wordFormat, h31, h15]

theorem wordFormat_pair {w : Word} (h31 : w.getLsbD 31 = false) (h15 : w.getLsbD 15 = false) :
    wordFormat w = .pair (w.extractLsb' 16 15) (w.extractLsb' 0 15) := by
  simp only [wordFormat, h31, h15]

theorem wordFormat_pce {w : Word} (h31 : w.getLsbD 31 = false) (h15 : w.getLsbD 15 = true) :
    wordFormat w = .pce (w.extractLsb' 16 15) (w.extractLsb' 0 15) := by
  simp only [wordFormat, h31, h15]

theorem wordFormat_undefined {w : Word} (h31 : w.getLsbD 31 = true) (h15 : w.getLsbD 15 = false) :
    wordFormat w = .undefined := by
  simp only [wordFormat, h31, h15]

end Sys2Proof

namespace Sys2Proof.Machine

/-! ## The instruction that a word and T select (30_encoding.md R147) -/

/-- Settles O3: the P-bits give the format; bit 1 of the pc, and in a PCE word T, give the half. -/
theorem fetchSelection : Obligations.FetchSelection := by
  unfold Obligations.FetchSelection
  intro w pc t
  refine ⟨?undefined, ?singleLow, ?singleHigh, ?pairHigh, ?pairLow, ?pceTrue, ?pceFalse, ?pceLowFalse, ?pceLowTrue⟩
  case undefined =>
    intro h31 h15
    simp only [selectCode, wordFormat_undefined h31 h15]
  case singleLow | singleHigh =>
    intro h31 h15 hlow
    simp only [selectCode, wordFormat_single h31 h15, hlow, if_true, Bool.false_eq_true, if_false]
  case pairHigh | pairLow =>
    intro h31 h15 hlow
    simp only [selectCode, wordFormat_pair h31 h15, hlow, if_true, Bool.false_eq_true, if_false]
  case pceTrue | pceFalse | pceLowFalse | pceLowTrue =>
    intro h31 h15 hlow ht
    simp only [selectCode, wordFormat_pce h31 h15, hlow, ht, if_true, Bool.false_eq_true, if_false]

/-! ## How a step ends that fetches no instruction (60_exceptions.md R633) -/

/-- A fetch that raises an exception: the step takes it, and no pending bus error or software interrupt. -/
theorem step_fetch_exc {s : State} {x : Exc} (h : Fetches s) (hx : s.beginStep.fetch = .exc x) :
    step s = .next (s.beginStep.endStep (takeException x .w32 s.beginStep)) := by
  rw [step_fetches h, hx, runFetched, commit_raise]

theorem step_fetch_stop {s : State} {f : Fault} (h : Fetches s) (hf : s.beginStep.fetch = .stop f) :
    step s = .fault f := by
  rw [step_fetches h, hf, runFetched]

theorem State.fetch_of_check_exc {s : State} {x : Exc} (h : s.checkFetch = .exc x) : s.beginStep.fetch = .exc x := by
  simp only [State.fetch, State.checkFetch_beginStep, h]

theorem State.fetch_of_check_stop {s : State} {f : Fault} (h : s.checkFetch = .stop f) : s.beginStep.fetch = .stop f := by
  simp only [State.fetch, State.checkFetch_beginStep, h]

theorem State.fetch_parity {s : State} (h : s.checkFetch = .ok) (hs : selectCode s.pcWord s.pc s.flags.t = .parity) :
    s.beginStep.fetch = .exc (.pel s.pc) := by
  simp only [State.fetch, State.checkFetch_beginStep, State.selected_beginStep, h, hs]
  rfl

/-- The state in which a step goes on that finds no instruction in the lower half of a PCE word. -/
def State.afterSkip (s : State) : State := { s.beginStep.fillI s.pc with pc := wordAddr s.pc + 4#32 }

theorem State.fetch_skip {s : State} (h : s.checkFetch = .ok) (hs : selectCode s.pcWord s.pc s.flags.t = .skip) :
    s.beginStep.fetch = .skip s.afterSkip := by
  simp only [State.fetch, State.checkFetch_beginStep, State.selected_beginStep, h, hs]
  rfl

theorem State.afterSkip_raised (s : State) : s.afterSkip.raised = false := by
  obtain ⟨c, h⟩ := s.beginStep.fillI_eq s.pc
  rw [State.afterSkip, h]
  rfl

/-- A step that skips a half ends as an instruction does: what is pending outside debug mode is taken. -/
theorem step_skip {s : State} (h : Fetches s) (hc : s.checkFetch = .ok)
    (hs : selectCode s.pcWord s.pc s.flags.t = .skip) :
    step s = .next (s.beginStep.endStep (afterInstr .w16 s.beginStep s.afterSkip)) := by
  rw [step_fetches h, State.fetch_skip hc hs, runFetched, commit]

/-! ## What pends after an instruction that raised nothing (60_exceptions.md R633 steps 10 and 11) -/

section
variable {w : Width} {s t : State}

theorem afterInstr_of_debug (hd : s.dreg.dm = true) : afterInstr w s t = t := by
  simp [afterInstr, hd]

theorem afterInstr_of_none (hb : s.busErrPending = false) (hi : s.swiAccepted = false) : afterInstr w s t = t := by
  simp [afterInstr, hb, hi]

theorem afterInstr_of_busError (ht : t.raised = false) (hd : s.dreg.dm = false) (hb : s.busErrPending = true) :
    afterInstr w s t = takeException .buselData w { s with busErrPending := false } := by
  simp [afterInstr, takeException, ht, hd, hb]

theorem afterInstr_of_swi (ht : t.raised = false) (hd : s.dreg.dm = false) (hb : s.busErrPending = false)
    (hi : s.swiAccepted = true) : afterInstr w s t = takeException .swi w s := by
  simp [afterInstr, takeException, ht, hd, hb, hi]

end


/-! ## The checks of a fetch (20_memory.md R90, R95; 60_exceptions.md R694) -/

section
variable {s : State}

theorem State.checkFetch_addrError (h : s.pc.getLsbD 0 = true ∨ s.forbidden s.pc = true) :
    s.checkFetch = .exc (.adelInstr s.pc) :=
  if_pos (Bool.or_eq_true _ _ ▸ h)

theorem State.checkFetch_busError (hodd : s.pc.getLsbD 0 = false) (hrange : s.forbidden s.pc = false)
    (hb : s.busError .fetch s.pc = true) : s.checkFetch = .exc .buselInstr := by
  simp only [State.checkFetch, hodd, hrange, hb, Bool.or_self, Bool.false_eq_true, if_false, if_true]

theorem State.checkFetch_stop (hodd : s.pc.getLsbD 0 = false) (hrange : s.forbidden s.pc = false)
    (hb : s.busError .fetch s.pc = false) {f : Fault} (hf : s.debugSegmentStop (wordAddr s.pc) 4 = some f) :
    s.checkFetch = .stop f := by
  simp only [State.checkFetch, State.fetchStop, hodd, hrange, hb, hf, Bool.or_self, Bool.false_eq_true, if_false]

/-- No range is forbidden to debug mode. -/
theorem State.forbidden_of_debug (hd : s.dreg.dm = true) (a : Word) : s.forbidden a = false := by
  rw [← Bool.not_eq_true, State.forbidden_iff, hd]
  simp

end

/-- A number on a word boundary is below an address exactly when it is below the address of its word. -/
theorem le_wordAddr_iff {n : Nat} (hn : n % 4 = 0) (a : Word) : n ≤ (wordAddr a).toNat ↔ n ≤ a.toNat := by
  have hsum := congrArg BitVec.toNat (wordAddr_add_offset a)
  have hmod := wordAddr_mod_four a
  rw [BitVec.toNat_add, BitVec.toNat_ofNat] at hsum
  omega

/-- Settles O5: the fetch answers its first check that fails, and a skipped half ends as an instruction does. -/
theorem fetchErrors : Obligations.FetchErrors := by
  unfold Obligations.FetchErrors
  intro s h
  refine ⟨?addr, ?bus, ?parity, ?skip, ?pending, ?debug⟩
  case addr => exact fun ha => step_fetch_exc h (State.fetch_of_check_exc (State.checkFetch_addrError ha))
  case bus =>
    exact fun hodd hrange hb => step_fetch_exc h (State.fetch_of_check_exc (State.checkFetch_busError hodd hrange hb))
  case parity => exact fun hc hs => step_fetch_exc h (State.fetch_parity hc hs)
  case skip =>
    intro hc hs hnone
    have hgo : afterInstr .w16 s.beginStep s.afterSkip = s.afterSkip := by
      obtain hd | ⟨hb, hi⟩ := hnone
      · exact afterInstr_of_debug hd
      · exact afterInstr_of_none hb (Bool.eq_false_iff.mpr (mt s.swiAccepted_iff.mp hi))
    rw [step_skip h hc hs, hgo]
    rfl
  case pending =>
    intro hc hs hd
    rw [step_skip h hc hs]
    constructor
    · intro hb
      rw [afterInstr_of_busError (s := s.beginStep) s.afterSkip_raised hd hb]
    · intro hb hi
      rw [afterInstr_of_swi (s := s.beginStep) s.afterSkip_raised hd hb (s.swiAccepted_iff.mpr hi)]
  case debug =>
    intro hodd hd hb
    have stop := fun {f} (hf : s.debugSegmentStop (wordAddr s.pc) 4 = some f) =>
      step_fetch_stop h (State.fetch_of_check_stop (State.checkFetch_stop hodd (State.forbidden_of_debug hd _) hb hf))
    have low := fun {n} (hn : n % 4 = 0) => le_wordAddr_iff hn s.pc
    refine ⟨?listed, ?unlisted, ?unassigned, ?noProbe⟩
    case listed =>
      intro v hv
      obtain ⟨hdrseg, -⟩ := hv.address
      obtain ⟨hok, hword⟩ := State.pcWord_drseg hd hodd hb hdrseg hv
      exact ⟨hok, hword.trans (fetchSwapped_eq _ _ _)⟩
    case unlisted =>
      intro hpc hnone
      exact stop (State.debugSegmentStop_unlisted ((low (by decide)).mpr hpc) hnone)
    case unassigned =>
      intro hlow hhigh
      rw [← low (by decide)] at hlow
      rw [← Nat.not_le, ← low (by decide), Nat.not_le] at hhigh
      exact stop (s.debugSegmentStop_unassigned 4 hlow hhigh)
    case noProbe =>
      intro hlow hhigh hp
      rw [← low (by decide)] at hlow
      rw [← Nat.not_le, ← low (by decide), Nat.not_le] at hhigh
      exact stop (State.debugSegmentStop_noProbe 4 hlow hhigh hp)

end Sys2Proof.Machine

namespace Sys2Proof

/-! ## The free cells of the opcode maps (30_encoding.md R180 to R187, R190) -/

section
variable {w : BitVec 30} {x : BitVec 15}

/-- The free main opcodes (R180). -/
theorem decode_free_op (hop : (fOp w).toNat ∈ [9, 10, 11, 14, 15, 25, 26, 27, 29, 30, 31]) :
    decode (.w32 w) = .error .undefinedCell := by
  simp only [List.mem_cons, List.not_mem_nil, or_false] at hop
  rcases hop with h | h | h | h | h | h | h | h | h | h | h <;> simp only [decode, decode32, h]

/-- The free func6 values (R181). -/
theorem decodeSpecialFunc_free (hfunc : (fFunc6 w).toNat ∈ [14, 25, 38, 39, 50, 54, 57]) :
    decodeSpecialFunc w = .error .undefinedCell := by
  simp only [List.mem_cons, List.not_mem_nil, or_false] at hfunc
  rcases hfunc with h | h | h | h | h | h | h <;> simp only [decodeSpecialFunc, h]

/-- A free func6 value is rejected whatever stands in the three bits that the format prints as 000 (R157). -/
theorem decode_free_func6 (hop : fOp w = 0#5) (hfunc : (fFunc6 w).toNat ∈ [14, 25, 38, 39, 50, 54, 57]) :
    ∃ e, decode (.w32 w) = .error e := by
  have hmap : decode (.w32 w) = decodeSpecial w := by simp [decode, decode32, hop]
  rw [hmap, decodeSpecial, decodeSpecialFunc_free hfunc]
  split
  · exact ⟨_, rfl⟩
  · exact ⟨_, rfl⟩

/-- The free func3 values of I-form-1 (R182). -/
theorem decode_free_iform1 (hop : fOp w = 1#5) (hfunc : (fI3 w).toNat ∈ [1, 3, 7]) :
    decode (.w32 w) = .error .undefinedCell := by
  have hmap : decode (.w32 w) = decodeIForm1 w := by simp [decode, decode32, hop]
  simp only [List.mem_cons, List.not_mem_nil, or_false] at hfunc
  rcases hfunc with h | h | h <;> simp only [hmap, decodeIForm1, h]

/-- The free func3 values of I-form-2 (R182). -/
theorem decode_free_iform2 (hop : fOp w = 5#5) (hfunc : (fI3 w).toNat ∈ [1, 2, 3, 7]) :
    decode (.w32 w) = .error .undefinedCell := by
  have hmap : decode (.w32 w) = decodeIForm2 w := by simp [decode, decode32, hop]
  simp only [List.mem_cons, List.not_mem_nil, or_false] at hfunc
  rcases hfunc with h | h | h | h <;> simp only [hmap, decodeIForm2, h]

theorem decode_crCop (hop : fOp w = 6#5) : decode (.w32 w) = decodeCrCop w := by simp [decode, decode32, hop]

/-- The free CR_OP values, where bit 2 names an instruction without operands and where it does not (R184). -/
theorem decode_free_crOp (hop : fOp w = 6#5) (hcp : fCp w = 0#2)
    (hcr : w.getLsbD 2 = true ∧ fCrOp w = 7#3 ∨ w.getLsbD 2 = false ∧ fCrOp w ≠ 0#3) :
    decode (.w32 w) = .error .undefinedCell := by
  have hmap : decodeCrCop w = decodeCrForm w := by simp [decodeCrCop, hcp]
  rw [decode_crCop hop, hmap]
  obtain ⟨hii, hcr⟩ | ⟨hii, hcr⟩ := hcr
  · simp only [decodeCrForm, hii, hcr, if_true]
    rfl
  · simp only [decodeCrForm, hii, hcr, Bool.false_eq_true, if_false]

/-- The free Sub-OP value of the three coprocessors (R184). -/
theorem decode_free_subOp (hop : fOp w = 6#5) (hcp : fCp w ≠ 0#2) (hsub : fLow3 w = 5#3) :
    decode (.w32 w) = .error .undefinedCell := by
  rw [decode_crCop hop, decodeCrCop]
  split
  case h_1 h0 => exact absurd (BitVec.eq_of_toNat_eq h0) hcp
  case h_2 => simp [decodeCop1, hsub]
  case h_3 => simp [decodeCop2, hsub]
  case h_4 => simp [decodeCop3, hsub]

/-- The free 16-bit main opcode (R185). -/
theorem decode_free_op16 (hop : hOp x = 1#3) : decode (.w16 x) = .error .undefinedCell := by
  simp [decode, decode16, hop]

/-- The free func4 values of 16-bit OP 000 (R186). -/
theorem decode_free_func4 (hop : hOp x = 0#3) (hfunc : (hFunc4 x).toNat ∈ [6, 7, 13, 14, 15]) :
    decode (.w16 x) = .error .undefinedCell := by
  have hmap : decode (.w16 x) = decodeRForm1 x := by simp [decode, decode16, hop]
  simp only [List.mem_cons, List.not_mem_nil, or_false] at hfunc
  rcases hfunc with h | h | h | h | h <;> simp only [hmap, decodeRForm1, h]

/-- The free func3 values of 16-bit OP 111 (R187). -/
theorem decode_free_func3 (hop : hOp x = 7#3) (hfunc : (hFunc3 x).toNat ∈ [2, 6]) :
    decode (.w16 x) = .error .undefinedCell := by
  have hmap : decode (.w16 x) = decodeIForm1b x := by simp [decode, decode16, hop]
  simp only [List.mem_cons, List.not_mem_nil, or_false] at hfunc
  rcases hfunc with h | h <;> simp only [hmap, decodeIForm1b, h]

end

end Sys2Proof

namespace Sys2Proof.Machine

/-- An encoding that the decoder rejects raises RI, whatever the reason (30_encoding.md R190; log 17). -/
theorem runCode_of_reject {c : Code} {e : Reject} (h : decode c = .error e) (s : State) :
    runCode c s = .next (takeException .ri c.width s) := by
  simp only [runCode, h, raise]

/-- Settles O6: the decoder rejects each free cell. -/
theorem undefinedOpcodes : Obligations.UndefinedOpcodes := by
  unfold Obligations.UndefinedOpcodes
  intro w h s
  refine ⟨?op, ?func6, ?iform1, ?iform2, ?crOp, ?crOpMove, ?subOp, ?op16, ?func4, ?func3⟩
  case op => exact fun hop => runCode_of_reject (decode_free_op hop) s
  case func6 =>
    intro hop hfunc
    obtain ⟨e, he⟩ := decode_free_func6 hop hfunc
    exact runCode_of_reject he s
  case iform1 => exact fun hop hfunc => runCode_of_reject (decode_free_iform1 hop hfunc) s
  case iform2 => exact fun hop hfunc => runCode_of_reject (decode_free_iform2 hop hfunc) s
  case crOp => exact fun hop hcp hii hcr => runCode_of_reject (decode_free_crOp hop hcp (.inl ⟨hii, hcr⟩)) s
  case crOpMove => exact fun hop hcp hii hcr => runCode_of_reject (decode_free_crOp hop hcp (.inr ⟨hii, hcr⟩)) s
  case subOp => exact fun hop hcp hsub => runCode_of_reject (decode_free_subOp hop hcp hsub) s
  case op16 => exact fun hop => runCode_of_reject (decode_free_op16 hop) s
  case func4 => exact fun hop hfunc => runCode_of_reject (decode_free_func4 hop hfunc) s
  case func3 => exact fun hop hfunc => runCode_of_reject (decode_free_func3 hop hfunc) s

end Sys2Proof.Machine

namespace Sys2Proof.Machine

/-! ## The flags of a subtraction as comparisons (30_encoding.md R170, 40_arith_logic.md R222) -/

/-- The flags after a compare of `a` and `b`, but for T. -/
structure Compared (a b : Word) (f : Flags) : Prop where
  z : f.z = true ↔ a = b
  c : f.c = true ↔ b.toNat ≤ a.toNat
  nv : f.n = f.v ↔ b.toInt ≤ a.toInt

theorem signedOverflow_iff (x : Int) : signedOverflow x = true ↔ ¬ (-2147483648 ≤ x ∧ x ≤ 2147483647) := by
  simp only [signedOverflow, Bool.or_eq_true, decide_eq_true_eq]
  omega

/-- The sign of a difference is wrong exactly when it overflows: N differs from V when the first operand is less. -/
theorem msb_sub_eq_signedOverflow_iff (a b : Word) :
    (a - b).msb = signedOverflow (a.toInt - b.toInt) ↔ b.toInt ≤ a.toInt := by
  rw [Bool.eq_iff_iff, signedOverflow_iff, BitVec.msb_eq_toInt, decide_eq_true_eq, BitVec.toInt_sub, Int.bmod_def]
  have ha := a.toInt_lt
  have ha' := a.le_toInt
  have hb := b.toInt_lt
  have hb' := b.le_toInt
  omega

theorem compared_arith (f : Flags) (a b : Word) : Compared a b (f.arith (subWith a b false)) := by
  refine ⟨?_, ?_, ?_⟩
  · simp [Flags.arith, subWith, boolWord, BitVec.sub_eq_iff_eq_add]
  · simp [Flags.arith, subWith]
  · simpa [Flags.arith, subWith, boolWord] using msb_sub_eq_signedOverflow_iff a b

/-- The TC field changes T only (30_encoding.md R172). -/
theorem Compared.test {a b : Word} {f : Flags} (h : Compared a b f) (tc : TestCond) : Compared a b (f.test tc) := by
  cases tc <;> exact ⟨h.z, h.c, h.nv⟩

/-- The rows of the condition table are the relations of its meaning column. -/
theorem Compared.condHolds {a b : Word} {t : State} (h : Compared a b t.flags) :
    (t.condHolds .cs = true ↔ b.toNat ≤ a.toNat) ∧ (t.condHolds .cc = true ↔ a.toNat < b.toNat) ∧
      (t.condHolds .gtu = true ↔ b.toNat < a.toNat) ∧ (t.condHolds .leu = true ↔ a.toNat ≤ b.toNat) ∧
      (t.condHolds .eq = true ↔ a = b) ∧ (t.condHolds .ne = true ↔ a ≠ b) ∧
      (t.condHolds .gt = true ↔ b.toInt < a.toInt) ∧ (t.condHolds .le = true ↔ a.toInt ≤ b.toInt) ∧
      (t.condHolds .ge = true ↔ b.toInt ≤ a.toInt) ∧ (t.condHolds .lt = true ↔ a.toInt < b.toInt) := by
  obtain ⟨hz, hc, hnv⟩ := h
  have hnat : a = b ↔ a.toNat = b.toNat := BitVec.toNat_inj.symm
  have hint : a = b ↔ a.toInt = b.toInt := BitVec.toInt_inj.symm
  refine ⟨?cs, ?cc, ?gtu, ?leu, ?eq, ?ne, ?gt, ?le, ?ge, ?lt⟩
  case cs | eq | ge => simp [State.condHolds, hc, hz, hnv]
  case cc | ne | lt => simp [State.condHolds, ← Bool.not_eq_true, hc, hz, hnv]
  case gtu | leu =>
    simp only [State.condHolds, Bool.and_eq_true, Bool.or_eq_true, Bool.not_eq_true', ← Bool.not_eq_true, hc, hz, hnat]
    omega
  case gt | le =>
    simp only [State.condHolds, Bool.and_eq_true, Bool.or_eq_true, Bool.not_eq_true', ← Bool.not_eq_true, beq_iff_eq,
      bne_iff_ne, ne_eq, hz, hnv, hint]
    omega

/-- Settles O15: each compare leaves the flags of `a - b`, and the rows of the table read them. -/
theorem conditionsAfterCompare : Obligations.ConditionsAfterCompare := by
  unfold Obligations.ConditionsAfterCompare
  rintro s i a b (⟨tc, ra, rb, rfl, rfl, rfl⟩ | ⟨tc, ra, rfl, rfl, rfl⟩ | ⟨rd, imm, rfl, rfl, rfl⟩ | ⟨rd, ra, rfl, rfl, rfl⟩)
  · exact ⟨_, rfl, ((compared_arith s.flags _ _).test tc).condHolds⟩
  · exact ⟨_, rfl, ((compared_arith s.flags _ _).test tc).condHolds⟩
  · exact ⟨_, rfl, ((compared_arith s.flags _ _).test .none).condHolds⟩
  · exact ⟨_, rfl, (compared_arith s.flags _ _).condHolds⟩

end Sys2Proof.Machine

namespace Sys2Proof.Machine

/-! ## Jump targets (30_encoding.md R166) -/

/-- A concatenation as a number. -/
theorem toNat_append_eq {m n : Nat} (x : BitVec m) (y : BitVec n) : (x ++ y).toNat = x.toNat * 2 ^ n + y.toNat := by
  rw [BitVec.toNat_append, ← Nat.shiftLeft_add_eq_or_of_lt y.isLt, Nat.shiftLeft_eq]

/-- A mask of the bits from `k` upward clears the bits below. -/
theorem toNat_and_highMask (a : Word) {mask : Word} {k : Nat} (h : ∀ i < 32, mask.getLsbD i = decide (k ≤ i)) :
    (a &&& mask).toNat = a.toNat / 2 ^ k * 2 ^ k := by
  have hshift : a &&& mask = (a >>> k) <<< k := by
    apply BitVec.eq_of_getLsbD_eq
    intro i hi
    rw [BitVec.getLsbD_and, h i hi, BitVec.getLsbD_shiftLeft, BitVec.getLsbD_ushiftRight]
    by_cases hk : k ≤ i
    · simp [hk, hi]
    · simp [hk, Nat.lt_of_not_le hk]
  rw [hshift, BitVec.toNat_shiftLeft, BitVec.toNat_ushiftRight, Nat.shiftLeft_eq, Nat.shiftRight_eq_div_pow]
  exact Nat.mod_eq_of_lt (Nat.lt_of_le_of_lt (Nat.div_mul_le_self _ _) a.isLt)

theorem jumpTarget_eq (pc : Word) (d : BitVec 24) :
    jumpTarget pc d = (pc &&& 0xFE000000#32) + BitVec.ofNat 32 (2 * d.toNat) := by
  have hmask := toNat_and_highMask pc (mask := 0xFE000000#32) (k := 25) (by decide)
  apply BitVec.eq_of_toNat_eq
  show (pc.extractLsb' 25 7 ++ d ++ 0#1).toNat = _
  rw [toNat_append_eq, toNat_append_eq, BitVec.extractLsb'_toNat, Nat.shiftRight_eq_div_pow, BitVec.toNat_add, hmask,
    BitVec.toNat_ofNat, BitVec.toNat_ofNat]
  have := pc.isLt
  have := d.isLt
  omega

theorem jumpTarget16_eq (pc : Word) (d : BitVec 11) :
    jumpTarget16 pc d = (pc &&& 0xFFFFF000#32) + BitVec.ofNat 32 (2 * d.toNat) := by
  have hmask := toNat_and_highMask pc (mask := 0xFFFFF000#32) (k := 12) (by decide)
  apply BitVec.eq_of_toNat_eq
  show (pc.extractLsb' 12 20 ++ d ++ 0#1).toNat = _
  rw [toNat_append_eq, toNat_append_eq, BitVec.extractLsb'_toNat, Nat.shiftRight_eq_div_pow, BitVec.toNat_add, hmask,
    BitVec.toNat_ofNat, BitVec.toNat_ofNat]
  have := pc.isLt
  have := d.isLt
  omega

/-! ## Jumps (42_branch_jump.md R335, R336; 46_16bit.md R542, R543) -/

/-- An instruction that writes general registers, CNT and the pc only. -/
theorem jumpFrame_of_gpr {s : State} {ex : List (BitVec 5)} {g : Vector Word 32} {n a : Word}
    (h : SameRegs ex s { s with gpr := g, cnt := n, pc := a }) : JumpFrame ex s { s with gpr := g, cnt := n, pc := a } :=
  ⟨h, rfl, fun _ => rfl, ⟨rfl, rfl⟩, rfl, rfl,
    ⟨⟨rfl, rfl, rfl, rfl, rfl, rfl, rfl, rfl⟩, ⟨rfl, rfl, rfl, rfl, rfl⟩, ⟨rfl, rfl, rfl⟩,
      ⟨rfl, rfl, rfl, rfl, rfl, rfl, rfl, rfl, rfl⟩, rfl, rfl⟩, ⟨rfl, rfl⟩⟩

theorem jumpFrame_jump (s : State) (a : Word) : JumpFrame [] s (s.jump a) :=
  jumpFrame_of_gpr (g := s.gpr) (n := s.cnt) fun _ _ => rfl

/-- A linking jump writes r3 too. -/
theorem jumpFrame_link (s : State) (w : Width) (a : Word) : JumpFrame [3#5] s ((s.linkIf true w).jump a) :=
  jumpFrame_of_gpr (n := s.cnt) (sameRegs_setR s linkReg (s.linkValue w))

theorem linkIf_r3 (s : State) (w : Width) (a : Word) : ((s.linkIf true w).jump a).r 3#5 = s.pc + w.bytes := by
  rw [State.r_jump]
  exact (s.r_setR _ _ _).trans (if_pos rfl)

/-- Settles O25: the four jumps by their targets and frames. -/
theorem jumps : Obligations.Jumps := by
  unfold Obligations.Jumps
  intro s d24 d11
  exact ⟨⟨_, rfl, jumpTarget_eq s.pc d24, rfl, jumpFrame_jump s _⟩,
    ⟨_, rfl, jumpTarget_eq s.pc d24, linkIf_r3 s .w32 _, rfl, jumpFrame_link s .w32 _⟩,
    ⟨_, rfl, jumpTarget16_eq s.pc d11, rfl, jumpFrame_jump s _⟩,
    ⟨_, rfl, jumpTarget16_eq s.pc d11, linkIf_r3 s .w16 _, rfl, jumpFrame_link s .w16 _⟩⟩

/-! ## T by the condition table (30_encoding.md R170, R171) -/

/-- The condition of a code is the row of its number. -/
theorem State.condHolds_eq_condTable (s : State) (c : Cond) : s.condHolds c = condTable c.toBits.toNat s.flags s.cnt := by
  cases c
  case gt | le | ge | lt | cnz => simp [State.condHolds, condTable, Cond.toBits, bne, beq_eq_decide]
  all_goals rfl

/-- An instruction that writes the current flags only. -/
theorem computeFrame_setFlags (s : State) (f : Flags) (w : Width) : ComputeFrame [] w s ((s.setFlags f).advance w) :=
  ⟨rfl, fun _ _ => rfl, ⟨rfl, rfl⟩, fun _ => rfl, ⟨rfl, rfl⟩, ⟨rfl, rfl, rfl⟩,
    ⟨⟨rfl, rfl, rfl, rfl, rfl, rfl, rfl, rfl⟩, ⟨rfl, rfl, rfl, rfl, rfl⟩, ⟨rfl, rfl, rfl⟩,
      ⟨rfl, rfl, rfl, rfl, rfl, rfl, rfl, rfl, rfl⟩, rfl, rfl⟩, ⟨rfl, rfl⟩⟩

theorem State.setT_flags (s : State) (c : Cond) :
    (s.setT c).flags = { s.flags with t := condTable c.toBits.toNat s.flags s.cnt } := by
  rw [← s.condHolds_eq_condTable c]
  rfl

/-- Settles O23: both widths are `State.setT`. -/
theorem setT : Obligations.SetT := by
  unfold Obligations.SetT
  intro s c
  exact ⟨⟨_, rfl, computeFrame_setFlags s _ .w32, s.setT_flags c⟩, ⟨_, rfl, computeFrame_setFlags s _ .w16, s.setT_flags c⟩⟩

end Sys2Proof.Machine

namespace Sys2Proof.Machine

/-! ## The gates before an instruction (60_exceptions.md R640, 44_ce_cop.md R442) -/

/-- Where control-register instructions may run they run. -/
theorem whenCrOk_of_crOk {s : State} (h : s.crOk = true) (body : Result) : whenCrOk s body = body := if_pos h

/-- A coprocessor that is usable and absent raises RI. -/
theorem whenCop_absent {z : CopNum} {s : State} (hu : copBit z s.psr.cu = true)
    (hp : copBit z s.cfg.copPresent = false) (body : Result) :
    whenCop z s body = .next (takeException .ri .w32 s) := by
  simp [whenCop, hu, hp, raise]

/-- Every instruction of a coprocessor asks whether it is usable and present first. -/
theorem exec_copInstr {z : CopNum} {i : Instr} (h : CopInstr z i) (s : State) : ∃ body, exec i s = whenCop z s body := by
  rcases h with ⟨rd, cra, rfl | rfl | rfl | rfl⟩ | ⟨rd, cra, imm, rfl | rfl⟩ | ⟨crd, cra, crb, code, rfl⟩
  all_goals cases z <;> exact ⟨_, rfl⟩

theorem exec_tlbSlot {i : Instr} (h : TlbSlot i) (s : State) : exec i s = whenCrOk s (raise .ri .w32 s) := by
  rcases h with rfl | rfl | rfl | rfl <;> rfl

/-! ## Numbers without a register or an operation (30_encoding.md R204, R205; 20_memory.md R125) -/

/-- Only CNT, LCR and SCR are special registers (10_state.md R25). -/
theorem exec_mfsr_unnamed {n : BitVec 5} (h : 3 ≤ n.toNat) (r : BitVec 5) (s : State) :
    exec (.mfsr r n) s = .next (takeException .ri .w32 s) := by
  show execMfsr r n s = _
  unfold execMfsr
  split
  case h_4 => rfl
  all_goals omega

theorem exec_mtsr_unnamed {n : BitVec 5} (h : 3 ≤ n.toNat) (r : BitVec 5) (s : State) :
    exec (.mtsr r n) s = .next (takeException .ri .w32 s) := by
  show execMtsr r n s = _
  unfold execMtsr
  split
  case h_4 => rfl
  all_goals omega

/-- The control registers that have a name (10_state.md R30, R32). -/
theorem State.readCr_unnamed {n : BitVec 5} (h : n.toNat ∉ [0, 1, 2, 3, 4, 5, 6, 15, 16, 18, 29, 30, 31]) (s : State) :
    s.readCr n = none := by
  unfold State.readCr
  split
  case h_14 => rfl
  all_goals next hn => simp [hn] at h

theorem State.writeCr_unnamed {n : BitVec 5} (h : n.toNat ∉ [0, 1, 2, 3, 4, 5, 6, 15, 16, 18, 29, 30, 31]) (s : State)
    (v : Word) : s.writeCr n v = none := by
  unfold State.writeCr
  split
  case h_14 => rfl
  all_goals next hn => simp [hn] at h

/-- Settles O56: each gate lets the instruction through to RI, or raises it. -/
theorem reservedInstructions : Obligations.ReservedInstructions := by
  unfold Obligations.ReservedInstructions
  intro s
  refine ⟨?tlb, ?cop, ?special, ?control, ?cache, ?ceinst⟩
  case tlb =>
    intro i hi hok
    rw [exec_tlbSlot hi, whenCrOk_of_crOk hok, raise]
  case cop =>
    intro i z hi hu hp
    obtain ⟨body, hexec⟩ := exec_copInstr hi s
    rw [hexec, whenCop_absent hu hp]
  case special => exact fun r n hn => ⟨exec_mfsr_unnamed hn r s, exec_mtsr_unnamed hn r s⟩
  case control =>
    intro r n hok hn
    constructor
    · show execMfcr r n s = _
      rw [execMfcr, whenCrOk_of_crOk hok, State.readCr_unnamed hn, raise]
    · show execMtcr r n s = _
      rw [execMtcr, whenCrOk_of_crOk hok, State.writeCr_unnamed hn, raise]
  case cache =>
    intro op ra imm hop
    have hundefined : cacheOpDefined op = false := by rw [cacheOpDefined, decide_eq_true hop, Bool.not_true]
    exact if_pos (by rw [hundefined, Bool.not_false])
  case ceinst =>
    intro u1 ra rb u2 f hf
    exact if_pos (by simpa using hf)

end Sys2Proof.Machine

namespace Sys2Proof.Machine

/-! ## What an instruction that computes a result leaves (40_arith_logic.md R221) -/

theorem Completes.mono {r : Result} {P Q : State → Prop} (h : Completes r P) (hPQ : ∀ t, P t → Q t) : Completes r Q := by
  obtain ⟨t, hr, ht⟩ := h
  exact ⟨t, hr, hPQ t ht⟩

/-- Flags that are not written are the old ones. -/
theorem State.setFlagsIf_eq (s : State) (cu : Bool) (f : Flags) :
    s.setFlagsIf cu f = s.setFlags (if cu then f else s.flags) := by
  cases cu <;> rfl

/-- The frame of an instruction that computes leaves the current flags open. -/
theorem ComputeFrame.setFlags {ex : List (BitVec 5)} {w : Width} {s t : State} (h : ComputeFrame ex w s t) (f : Flags) :
    ComputeFrame ex w s (t.setFlags f) := h

/-- An instruction that writes one general register and the current flags only. -/
theorem computeFrame_setR_setFlags (s : State) (rd : BitVec 5) (v : Word) (f : Flags) (w : Width) :
    ComputeFrame [rd] w s (((s.setR rd v).setFlags f).advance w) :=
  (computeFrame_setR s rd v w).setFlags f

/-- An instruction that changes the pc only. -/
theorem computeFrame_advance (s : State) (w : Width) : ComputeFrame [] w s (s.advance w) :=
  computeFrame_setFlags s s.flags w

/-- The destination holds what was written to it. -/
theorem r_setR_setFlags_advance (s : State) (rd : BitVec 5) (v : Word) (f : Flags) (w : Width) :
    (((s.setR rd v).setFlags f).advance w).r rd = v :=
  (s.r_setR rd rd v).trans (if_pos rfl)

/-- A result, with its flags where the CU bit asks for them. -/
theorem completes_setR_setFlagsIf (s : State) (rd : BitVec 5) (v : Word) (cu : Bool) (f : Flags) (w : Width) :
    Completes (done w ((s.setR rd v).setFlagsIf cu f)) fun t =>
      ComputeFrame [rd] w s t ∧ t.r rd = v ∧ (cu = true → t.flags = f) ∧ (cu = false → SameFlags s t) := by
  refine ⟨_, rfl, ?_⟩
  rw [State.setFlagsIf_eq]
  refine ⟨computeFrame_setR_setFlags s rd v _ w, r_setR_setFlags_advance s rd v _ w, ?flags, ?kept⟩
  case flags | kept =>
    rintro rfl
    rfl

/-! ## Carry and overflow (40_arith_logic.md R222) -/

theorem boolWord_eq_setWidth (b : Bool) : boolWord b = (BitVec.ofBool b).setWidth 32 := by
  cases b <;> rfl

theorem toInt_boolWord (b : Bool) : (boolWord b).toInt = (b.toNat : Int) := by
  cases b <;> rfl

theorem toNat_setWidth_ofBool (b : Bool) : ((BitVec.ofBool b).setWidth 33).toNat = b.toNat := by
  cases b <;> rfl

theorem toInt_not_eq (b : Word) : (~~~b).toInt = -b.toInt - 1 := by
  rw [BitVec.toInt_eq_toNat_cond, BitVec.toInt_eq_toNat_cond, BitVec.toNat_not]
  have := b.isLt
  omega

/-- The result is the exact sum modulo 2^32. -/
theorem toInt_addWith_res (a b : Word) (cin : Bool) :
    (addWith a b cin).res.toInt = (a.toInt + b.toInt + (cin.toNat : Int)).bmod (2 ^ 32) := by
  simp only [addWith, BitVec.toInt_add, toInt_boolWord, Int.bmod_add_bmod]

/-- The carry is bit 32 of the 33-bit sum. -/
theorem addWith_c (a b : Word) (cin : Bool) :
    (addWith a b cin).c = (a.setWidth 33 + b.setWidth 33 + (BitVec.ofBool cin).setWidth 33).msb := by
  show decide (2 ^ 32 ≤ a.toNat + b.toNat + cin.toNat) = _
  rw [BitVec.msb_eq_decide, BitVec.toNat_add, BitVec.toNat_add, toNat_setWidth_ofBool, BitVec.toNat_setWidth,
    BitVec.toNat_setWidth, decide_eq_decide]
  have := a.isLt
  have := b.isLt
  have := cin.toNat_lt
  omega

/-- An addition overflows when both operands have one sign and the result has the other. -/
theorem addWith_v (a b : Word) (cin : Bool) :
    (addWith a b cin).v = (a.msb == b.msb && (addWith a b cin).res.msb != a.msb) := by
  show signedOverflow (a.toInt + b.toInt + (cin.toNat : Int)) = _
  rw [Bool.eq_iff_iff, signedOverflow_iff]
  simp only [Bool.and_eq_true, beq_iff_eq, bne_iff_ne, ne_eq, BitVec.msb_eq_toInt, decide_eq_decide, toInt_addWith_res,
    Int.bmod_def]
  have := a.toInt_lt
  have := a.le_toInt
  have := b.toInt_lt
  have := b.le_toInt
  have := cin.toNat_lt
  omega

/-- A subtraction is the addition of the complement, with the complement of the borrow. -/
theorem subWith_eq_addWith_not (a b : Word) (bin : Bool) : subWith a b bin = addWith a (~~~b) (!bin) := by
  have hnot : (!bin).toNat + bin.toNat = 1 := by cases bin <;> rfl
  have hword : boolWord (!bin) = 1#32 - boolWord bin := by cases bin <;> rfl
  have hres : a - b - boolWord bin = a + ~~~b + boolWord (!bin) := by
    rw [hword]
    bv_omega
  have hc : b.toNat + bin.toNat ≤ a.toNat ↔ 2 ^ 32 ≤ a.toNat + (~~~b).toNat + (!bin).toNat := by
    rw [BitVec.toNat_not]
    omega
  have hv : a.toInt - b.toInt - (bin.toNat : Int) = a.toInt + (~~~b).toInt + ((!bin).toNat : Int) := by
    rw [toInt_not_eq]
    omega
  rw [subWith, addWith, hres, hv, decide_eq_decide.mpr hc]

/-! ## The arithmetic class (40_arith_logic.md R230 to R240, 46_16bit.md R515 to R521) -/

theorem flagsAdd_arith (f : Flags) (a b : Word) (cin : Bool) :
    FlagsAdd f (f.arith (addWith a b cin)) a b cin (addWith a b cin).res :=
  ⟨rfl, rfl, beq_eq_decide _ _, addWith_c a b cin, addWith_v a b cin⟩

/-- The flags of a subtraction are those of the addition of the complement. -/
theorem flagsSub_iff_flagsAdd_not {f g : Flags} {a b : Word} {bin : Bool} {res : Word} :
    FlagsSub f g a b bin res ↔ FlagsAdd f g a (~~~b) (!bin) res := by
  have hsigns : (a.msb == (~~~b).msb) = (a.msb != b.msb) := by
    rw [BitVec.msb_not]
    cases a.msb <;> cases b.msb <;> rfl
  rw [FlagsSub, FlagsAdd, hsigns]

theorem flagsSub_arith (f : Flags) (a b : Word) (bin : Bool) :
    FlagsSub f (f.arith (subWith a b bin)) a b bin (subWith a b bin).res := by
  rw [flagsSub_iff_flagsAdd_not, subWith_eq_addWith_not]
  exact flagsAdd_arith f a (~~~b) (!bin)

theorem completes_putArith_add (s : State) (rd : BitVec 5) (a b : Word) (cin cu : Bool) (w : Width) :
    Completes (done w (s.putArith rd (addWith a b cin) cu)) (Adds rd w a b cin cu s) := by
  refine (completes_setR_setFlagsIf s rd _ cu _ w).mono ?_
  rintro t ⟨hframe, hres, hflags, hkept⟩
  refine ⟨hframe, ?value, ?flags, hkept⟩
  case value =>
    rw [hres, ← boolWord_eq_setWidth]
    rfl
  case flags =>
    intro hcu
    rw [hflags hcu, hres]
    exact flagsAdd_arith s.flags a b cin

theorem completes_putArith_sub (s : State) (rd : BitVec 5) (a b : Word) (bin cu : Bool) (w : Width) :
    Completes (done w (s.putArith rd (subWith a b bin) cu)) (Subtracts rd w a b bin cu s) := by
  refine (completes_setR_setFlagsIf s rd _ cu _ w).mono ?_
  rintro t ⟨hframe, hres, hflags, hkept⟩
  refine ⟨hframe, ?value, ?flags, hkept⟩
  case value =>
    rw [hres, ← boolWord_eq_setWidth]
    rfl
  case flags =>
    intro hcu
    rw [hflags hcu, hres]
    exact flagsSub_arith s.flags a b bin

/-- A shifted 1 is a power of two: the operand of `addei!` and `subei!`, the mask of a bit operation. -/
theorem one_shiftLeft_eq_ofNat (k : Nat) : 1#32 <<< k = BitVec.ofNat 32 (2 ^ k) := by
  apply BitVec.eq_of_toNat_eq
  simp [Nat.shiftLeft_eq]

/-- Settles O12: each is an `addWith` of its operands. -/
theorem additions : Obligations.Additions := by
  unfold Obligations.Additions
  intro s rd ra rb cu imm imm14 d a e
  refine ⟨?add, ?addc, ?addi, ?addis, ?addri, ?add16, ?addc16, ?addei16⟩
  case add | addc | addi | addis | addri | add16 | addc16 => exact completes_putArith_add s ..
  case addei16 =>
    rw [← one_shiftLeft_eq_ofNat]
    exact completes_putArith_add s ..

/-- Settles O13: each is a `subWith` of its operands. -/
theorem subtractions : Obligations.Subtractions := by
  unfold Obligations.Subtractions
  intro s rd ra rb cu d a e
  refine ⟨?sub, ?subc, ?neg, ?sub16, ?neg16, ?subei16⟩
  case sub | subc | neg | sub16 | neg16 => exact completes_putArith_sub s ..
  case subei16 =>
    rw [← one_shiftLeft_eq_ofNat]
    exact completes_putArith_sub s ..

/-- The TC field reads Z or N of the difference into T, and changes no other flag (30_encoding.md R172). -/
theorem compares_compare (s : State) (a b : Word) (tc : TestCond) (w : Width) :
    Compares w a b tc s ((s.compare a b tc).advance w) := by
  have hres : (subWith a b false).res = a - b := BitVec.sub_zero _
  have hflags := flagsSub_arith s.flags a b false
  rw [hres] at hflags
  obtain ⟨-, hn, hz, hc, hv⟩ := hflags
  refine ⟨computeFrame_setFlags s _ w, ?flags, ?t⟩
  case flags => cases tc <;> exact ⟨rfl, hn, hz, hc, hv⟩
  case t =>
    cases tc with
    | teq => exact hz
    | tmi => exact hn
    | reserved | none => rfl

/-- Settles O14: each is `State.compare` of its operands. -/
theorem compareFlags : Obligations.CompareFlags := by
  unfold Obligations.CompareFlags
  intro s tc ra rb imm d a
  exact ⟨⟨_, rfl, compares_compare s _ _ tc .w32⟩, ⟨_, rfl, compares_compare s _ _ tc .w32⟩,
    ⟨_, rfl, compares_compare s _ _ .none .w32⟩, ⟨_, rfl, compares_compare s _ _ .none .w16⟩⟩

/-- Settles O11: V and C of `addWith` and `subWith` are defined by the exact values. -/
theorem overflowIsExact : Obligations.OverflowIsExact := by
  unfold Obligations.OverflowIsExact
  intro s rd ra rb
  refine ⟨?addc, ?subc⟩
  case addc | subc =>
    refine (completes_setR_setFlagsIf s rd _ true _ .w32).mono ?_
    rintro t ⟨-, -, hflags, -⟩
    rw [hflags rfl]
    exact ⟨signedOverflow_iff _, decide_eq_true_iff⟩

/-! ## The logical class (40_arith_logic.md R223) -/

theorem completes_putLogic (s : State) (rd : BitVec 5) (res : Word) (cu : Bool) (w : Width) :
    Completes (done w (s.putLogic rd res cu)) (LogicalTo rd w res cu s) := by
  refine (completes_setR_setFlagsIf s rd res cu _ w).mono ?_
  rintro t ⟨hframe, hres, hflags, hkept⟩
  refine ⟨hframe, hres, fun hcu => ?_, hkept⟩
  rw [hflags hcu]
  exact ⟨rfl, rfl, beq_eq_decide _ _, rfl, rfl⟩

/-- Settles O16: each is `State.putLogic` of its result. -/
theorem logical : Obligations.Logical := by
  unfold Obligations.Logical
  intro s rd ra rb cu imm imm14 d a
  refine ⟨?and, ?or, ?xor, ?not, ?andi, ?andis, ?andri, ?ori, ?oris, ?orri, ?and16, ?or16, ?xor16, ?not16⟩
  all_goals exact completes_putLogic s ..

/-! ## Bit operations (40_arith_logic.md R262) -/

theorem flagsBit_bitop (cfg : Config) (f : Flags) (res : Word) (b : Bool) :
    FlagsBit cfg f (f.bitop cfg.bitopFlagsTrm res b) res b := by
  unfold FlagsBit Flags.bitop
  cases cfg.bitopFlagsTrm with
  | false => simp
  | true => simp [beq_eq_decide]

theorem completes_putBitop (s : State) (rd : BitVec 5) (res : Word) (b : Bool) (w : Width) :
    Completes (done w (s.putBitop rd res b)) (BitTo rd w res b s) :=
  ⟨_, rfl, computeFrame_setR_setFlags s rd res _ w, r_setR_setFlags_advance s rd res _ w, flagsBit_bitop s.cfg s.flags res b⟩

/-- Settles O17: each is `State.putBitop` of its result, or sets its flags only. -/
theorem bitOperations : Obligations.BitOperations := by
  unfold Obligations.BitOperations
  intro s rd ra bn d
  rw [← one_shiftLeft_eq_ofNat]
  refine ⟨?clr, ?set, ?tgl, ?tst, ?clr16, ?set16, ?tgl16, ?tst16⟩
  case clr | set | tgl | clr16 | set16 | tgl16 => exact completes_putBitop s ..
  case tst | tst16 => exact ⟨_, rfl, computeFrame_setFlags s _ _, flagsBit_bitop s.cfg s.flags _ _⟩

/-! ## Moves (40_arith_logic.md R270 to R272, 46_16bit.md R522 to R526) -/

theorem completes_setR (s : State) (rd : BitVec 5) (v : Word) (w : Width) :
    Completes (done w (s.setR rd v)) (MovesTo rd w v s) :=
  ⟨_, rfl, computeFrame_setR s rd v w, (s.r_setR rd rd v).trans (if_pos rfl), rfl⟩

/-- The fields of the two groups name the lower and the upper sixteen registers (46_16bit.md R511). -/
theorem toNat_g0 (i : BitVec 4) : (g0 i).toNat = i.toNat := by
  rw [g0, toNat_append_eq]
  exact Nat.zero_add _

theorem toNat_g1 (i : BitVec 4) : (g1 i).toNat = 16 + i.toNat := toNat_append_eq 1#1 i

/-- Settles O18: each writes its register or nothing. -/
theorem moves : Obligations.Moves := by
  unfold Obligations.Moves
  intro s rd imm imm8 d a
  refine ⟨?ldi, ?ldis, ?ldiu, ?mv, ?mhfl, ?mlfh, toNat_g0 d, toNat_g1 d, ?nop, ?nop16, ?pflush⟩
  case ldi | ldis | ldiu | mv | mhfl | mlfh => exact completes_setR s ..
  case nop | nop16 | pflush => exact ⟨_, rfl, computeFrame_advance s _, rfl⟩

/-! ## Example words (40_arith_logic.md R275 and the examples after it) -/

/-- A word that the encoder writes, P-bits added, holds its instruction. -/
theorem wordInstr_of_encode {w : Word} {i : Instr} (h : wordOf (encode i) = w) : wordInstr w = some i := by
  have hdecode : decode (encode i) = .ok i := decodeEncode i
  simp only [wordInstr, ← h, firstCode_wordOf, hdecode]

/-- Settles O2: the encoder writes each word. -/
theorem decodeSpecWords : Obligations.DecodeSpecWords := by
  unfold Obligations.DecodeSpecWords
  and_intros
  all_goals exact wordInstr_of_encode (by decide)

end Sys2Proof.Machine

namespace Sys2Proof.Machine

/-! ## The last bit of a shift or rotate (41_shift_ext_move.md R281, R290) -/

theorem toNat_shiftAmount (w : Word) : (shiftAmount w).toNat = w.toNat % 32 :=
  BitVec.toNat_setWidth 5 w

/-- `b` is the last bit that a shift or rotate by `n` moves; an amount of 0 moves none. -/
def ShiftOut.LastBit (o : ShiftOut) (n : Nat) (b : Bool) : Prop := o.out = if n = 0 then none else some b

/-- The model asks the amount, the statements its number, whether it is 0. -/
theorem lastBit_mk (res : Word) (n : BitVec 5) {b c : Bool} (hbit : n.toNat ≠ 0 → b = c) :
    (ShiftOut.mk res (if n = 0#5 then none else some b)).LastBit n.toNat c := by
  have hzero : n = 0#5 ↔ n.toNat = 0 := BitVec.toNat_inj.symm
  simp only [ShiftOut.LastBit, hzero]
  split
  next => rfl
  next hn => rw [hbit hn]

theorem lastBit_shiftLeft (a : Word) (n : BitVec 5) : (shiftLeft a n).LastBit n.toNat (a.getLsbD (32 - n.toNat)) :=
  lastBit_mk _ n fun _ => rfl

theorem lastBit_shiftRight (a : Word) (n : BitVec 5) : (shiftRight a n).LastBit n.toNat (a.getLsbD (n.toNat - 1)) :=
  lastBit_mk _ n fun _ => rfl

theorem lastBit_shiftRightArith (a : Word) (n : BitVec 5) :
    (shiftRightArith a n).LastBit n.toNat (a.getLsbD (n.toNat - 1)) :=
  lastBit_mk _ n fun _ => rfl

theorem lastBit_rotLeft (a : Word) (n : BitVec 5) : (rotLeft a n).LastBit n.toNat (a.getLsbD (32 - n.toNat)) :=
  lastBit_mk _ n fun _ => rfl

theorem lastBit_rotRight (a : Word) (n : BitVec 5) : (rotRight a n).LastBit n.toNat (a.getLsbD (n.toNat - 1)) :=
  lastBit_mk _ n fun _ => rfl

/-- Below the top bit of `{C, a}`, counted from the top, stand the bits of `a`. -/
theorem getMsbD_carry_append (c : Bool) (a : Word) {k : Nat} (hpos : 0 < k) (hlt : k < 33) :
    (BitVec.ofBool c ++ a).getMsbD k = a.getLsbD (32 - k) := by
  have hlow : 33 - 1 - k < 32 := by omega
  rw [BitVec.getMsbD_eq_getLsbD, decide_eq_true hlt, Bool.true_and, BitVec.getLsbD_append, if_pos hlow]

theorem lastBit_rotLeftCarry (a : Word) (c : Bool) (n : BitVec 5) :
    (rotLeftCarry a c n).LastBit n.toNat (a.getLsbD (32 - n.toNat)) := by
  refine lastBit_mk _ n fun hn => ?_
  have hlt := n.isLt
  have hmod : n.toNat % (1 + 32) = n.toNat := by omega
  rw [BitVec.msb_rotateLeft, hmod]
  exact getMsbD_carry_append c a (by omega) (by omega)

theorem lastBit_rotRightCarry (a : Word) (c : Bool) (n : BitVec 5) :
    (rotRightCarry a c n).LastBit n.toNat (a.getLsbD (n.toNat - 1)) := by
  refine lastBit_mk _ n fun hn => ?_
  have hlt := n.isLt
  have hmod : (1 + 32 - n.toNat % (1 + 32)) % (1 + 32) = 33 - n.toNat := by omega
  have hbit : n.toNat - 1 = 32 - (33 - n.toNat) := by omega
  rw [BitVec.msb_rotateRight, hmod, hbit]
  exact getMsbD_carry_append c a (by omega) (by omega)

/-! ## Shifts (41_shift_ext_move.md R281 to R287, 46_16bit.md R536 to R540) -/

/-- A shift's result with flags: any C will do when the amount is 0. -/
theorem shiftTo_setFlags_shift (s : State) (rd : BitVec 5) (res : Word) {n : Nat} {b c : Bool} (hc : n ≠ 0 → c = b)
    (w : Width) : ShiftTo rd w res n b true s (((s.setR rd res).setFlags (s.flags.shift res c)).advance w) :=
  ⟨computeFrame_setR_setFlags s rd res _ w, r_setR_setFlags_advance s rd res _ w,
    fun _ => ⟨rfl, rfl, beq_eq_decide _ _, hc, rfl⟩, nofun⟩

/-- Using up a free value is no part of a shift's effect. -/
theorem ShiftTo.spend_advance {rd : BitVec 5} {w : Width} {res : Word} {n : Nat} {b cu : Bool} {s t : State}
    (h : ShiftTo rd w res n b cu s (t.advance w)) : ShiftTo rd w res n b cu s (t.spend.advance w) := h

/-- A shift writes its result; with flags N, Z and C, which is the last bit where there is one and free otherwise. -/
theorem completes_putShift (s : State) (rd : BitVec 5) {o : ShiftOut} {n : Nat} {b : Bool} (hlast : o.LastBit n b)
    (cu : Bool) (w : Width) : Completes (done w (s.putShift rd o cu)) (ShiftTo rd w o.res n b cu s) := by
  cases cu with
  | false =>
    refine (completes_setR s rd o.res w).mono ?_
    rintro t ⟨hframe, hres, hkept⟩
    exact ⟨hframe, hres, nofun, fun _ => hkept⟩
  | true =>
    have hout : n ≠ 0 → o.out = some b := fun hn => hlast.trans (if_neg hn)
    obtain ⟨res, _ | c⟩ := o
    · have hc : n ≠ 0 → s.freeBit = b := fun hn => nomatch hout hn
      exact ⟨_, rfl, (shiftTo_setFlags_shift s rd res hc w).spend_advance⟩
    · exact ⟨_, rfl, shiftTo_setFlags_shift s rd res (fun hn => Option.some.inj (hout hn)) w⟩

/-- Settles O19: each is `State.putShift` of its shift, by a register's low five bits or a field. -/
theorem shifts : Obligations.Shifts := by
  unfold Obligations.Shifts
  intro s rd ra rb sa cu d a n m hn hm
  obtain rfl : n = (shiftAmount (s.r rb)).toNat := hn.trans (toNat_shiftAmount _).symm
  obtain rfl : m = (shiftAmount (s.r (g0 a))).toNat := hm.trans (toNat_shiftAmount _).symm
  refine ⟨?sll, ?srl, ?sra, ?slli, ?srli, ?srai, ?sll16, ?srl16, ?sra16, ?slli16, ?srli16⟩
  case sll | slli | sll16 | slli16 => exact completes_putShift s _ (lastBit_shiftLeft _ _) _ _
  case srl | srli | srl16 | srli16 => exact completes_putShift s _ (lastBit_shiftRight _ _) _ _
  case sra | srai | sra16 => exact completes_putShift s _ (lastBit_shiftRightArith _ _) _ _

/-! ## Rotates (41_shift_ext_move.md R290 to R298) -/

/-- C becomes the last bit, and stays where there is none. -/
theorem flagsRotate_rotate (f : Flags) {o : ShiftOut} {n : Nat} {b : Bool} (hlast : o.LastBit n b) :
    FlagsRotate f (f.rotate o.res o.out) o.res n b := by
  refine ⟨rfl, rfl, rfl, ?carry, rfl⟩
  case carry =>
    show o.out.getD f.c = _
    rw [hlast]
    split <;> rfl

theorem completes_putRotate (s : State) (rd : BitVec 5) {o : ShiftOut} {n : Nat} {b : Bool} (hlast : o.LastBit n b)
    (cu : Bool) (w : Width) : Completes (done w (s.putRotate rd o cu)) (RotateTo rd w o.res n b cu s) := by
  refine (completes_setR_setFlagsIf s rd o.res cu _ w).mono ?_
  rintro t ⟨hframe, hres, hflags, hkept⟩
  refine ⟨hframe, hres, fun hcu => ?_, hkept⟩
  rw [hflags hcu]
  exact flagsRotate_rotate s.flags hlast

/-- Settles O20: each is `State.putRotate` of its rotate; those through carry always set flags. -/
theorem rotates : Obligations.Rotates := by
  unfold Obligations.Rotates
  intro s rd ra rb sa cu n hn
  obtain rfl : n = (shiftAmount (s.r rb)).toNat := hn.trans (toNat_shiftAmount _).symm
  refine ⟨?rol, ?ror, ?roli, ?rori, ?rolc, ?rorc, ?rolic, ?roric⟩
  case rol | roli => exact completes_putRotate s rd (lastBit_rotLeft _ _) cu .w32
  case ror | rori => exact completes_putRotate s rd (lastBit_rotRight _ _) cu .w32
  case rolc | rolic => exact completes_putRotate s rd (lastBit_rotLeftCarry _ _ _) true .w32
  case rorc | roric => exact completes_putRotate s rd (lastBit_rotRightCarry _ _ _) true .w32

/-! ## Extensions (41_shift_ext_move.md R300 to R304) -/

theorem sext8_eq (a : Word) : sext8 a = (a.extractLsb' 0 8).signExtend 32 := by
  rw [sext8, sext, BitVec.setWidth_eq_extractLsb' (by decide)]

theorem sext16_eq (a : Word) : sext16 a = (a.extractLsb' 0 16).signExtend 32 := by
  rw [sext16, sext, BitVec.setWidth_eq_extractLsb' (by decide)]

/-- Zero extension of the low `k` bits is a mask. -/
theorem zext_setWidth_eq_and (a : Word) {k : Nat} (hk : k ≤ 32) :
    zext (a.setWidth k) = a &&& BitVec.ofNat 32 (2 ^ k - 1) := by
  have hmask : 2 ^ k - 1 < 2 ^ 32 := Nat.sub_one_lt_of_le (by positivity) (Nat.pow_le_pow_right (by decide) hk)
  have hfit : a.toNat % 2 ^ k < 2 ^ 32 := (Nat.mod_le _ _).trans_lt a.isLt
  apply BitVec.eq_of_toNat_eq
  rw [zext, BitVec.toNat_setWidth, BitVec.toNat_setWidth, Nat.mod_eq_of_lt hfit, BitVec.toNat_and, BitVec.toNat_ofNat,
    Nat.mod_eq_of_lt hmask, Nat.and_two_pow_sub_one_eq_mod]

theorem zext8_eq (a : Word) : zext8 a = a &&& 0xFF#32 :=
  zext_setWidth_eq_and a (k := 8) (by decide)

theorem zext16_eq (a : Word) : zext16 a = a &&& 0xFFFF#32 :=
  zext_setWidth_eq_and a (k := 16) (by decide)

theorem completes_putExt (s : State) (rd : BitVec 5) (res : Word) (cu : Bool) (w : Width) :
    Completes (done w (s.putExt rd res cu)) (ExtendTo rd w res cu s) :=
  completes_setR_setFlagsIf s rd res cu _ w

/-- Settles O21: each is `State.putExt` of its extension. -/
theorem extensions : Obligations.Extensions := by
  unfold Obligations.Extensions
  intro s rd ra cu
  rw [← sext8_eq, ← sext16_eq, ← zext8_eq, ← zext16_eq]
  refine ⟨?extsb, ?extsh, ?extzb, ?extzh⟩
  all_goals exact completes_putExt s ..

/-! ## The conditional move (41_shift_ext_move.md R310, 30_encoding.md R203) -/

/-- A condition that is not reserved chooses between the move and nothing. -/
theorem exec_mvcond {ec : Cond} (hec : ec ≠ .cnz) (rd ra : BitVec 5) (s : State) :
    exec (.mvcond rd ra ec) s = if s.condHolds ec then done .w32 (s.setR rd (s.r ra)) else done .w32 s :=
  if_neg hec

/-- Settles O22: the three branches of the move. -/
theorem conditionalMove : Obligations.ConditionalMove := by
  unfold Obligations.ConditionalMove
  intro s rd ra ec
  refine ⟨fun hec => ?run, fun hec => if_pos hec⟩
  rw [exec_mvcond hec]
  cases hcond : s.condHolds ec with
  | false => exact ⟨_, rfl, nofun, fun _ => ⟨computeFrame_advance s .w32, rfl⟩⟩
  | true => exact (completes_setR s rd (s.r ra) .w32).mono fun t hmoves => ⟨fun _ => hmoves, nofun⟩

/-! ## Special registers (41_shift_ext_move.md R315, R316) -/

/-- An instruction that writes CNT, LCR and SCR only. -/
theorem specialFrame_advance (s : State) (cnt lcr scr : Word) (w : Width) :
    SpecialFrame w s (State.advance { s with cnt := cnt, lcr := lcr, scr := scr } w) :=
  ⟨rfl, fun _ _ => rfl, rfl, fun _ => rfl, ⟨rfl, rfl⟩,
    ⟨⟨rfl, rfl, rfl, rfl, rfl, rfl, rfl, rfl⟩, ⟨rfl, rfl, rfl, rfl, rfl⟩, ⟨rfl, rfl, rfl⟩,
      ⟨rfl, rfl, rfl, rfl, rfl, rfl, rfl, rfl, rfl⟩, rfl, rfl⟩, ⟨rfl, rfl⟩⟩

/-- Settles O24: `mfsr` writes a general register, `mtsr` one of the three. -/
theorem specialRegisters : Obligations.SpecialRegisters := by
  unfold Obligations.SpecialRegisters
  intro s r
  refine ⟨?mfCnt, ?mfLcr, ?mfScr, ?mtCnt, ?mtLcr, ?mtScr⟩
  case mfCnt | mfLcr | mfScr => exact completes_setR s ..
  case mtCnt => exact ⟨_, rfl, specialFrame_advance s (s.r r) s.lcr s.scr .w32, rfl, rfl, rfl⟩
  case mtLcr => exact ⟨_, rfl, specialFrame_advance s s.cnt (s.r r) s.scr .w32, rfl, rfl, rfl⟩
  case mtScr => exact ⟨_, rfl, specialFrame_advance s s.cnt s.lcr (s.r r) .w32, rfl, rfl, rfl⟩

end Sys2Proof.Machine

namespace Sys2Proof.Machine

/-! ## Branch targets (30_encoding.md R166) -/

/-- A bit 0 below keeps the sign. -/
theorem msb_append_zero {n : Nat} (d : BitVec n) : (d ++ 0#1).msb = d.msb := by
  rw [BitVec.msb_append]
  cases n with
  | zero => simp [BitVec.of_length_zero]
  | succ n => simp

/-- Extending a displacement with a bit 0 below doubles the extended displacement. -/
theorem sext_append_zero {n : Nat} (d : BitVec n) : sext (d ++ 0#1) = 2#32 * d.signExtend 32 := by
  have hdouble : 2#32 * d.signExtend 32 = d.signExtend 32 <<< 1 :=
    (BitVec.mul_comm _ _).trans (BitVec.shiftLeft_eq_mul_twoPow _ 1).symm
  rw [hdouble]
  apply BitVec.eq_of_getLsbD_eq
  intro i hi
  rw [sext, BitVec.getLsbD_signExtend, BitVec.getLsbD_append, BitVec.getLsbD_shiftLeft, BitVec.getLsbD_signExtend,
    msb_append_zero]
  cases i with
  | zero => simp
  | succ i => simp [Nat.lt_of_succ_lt hi]

theorem branchTarget_eq (pc : Word) (d : BitVec 19) : branchTarget pc d = pc + 2#32 * d.signExtend 32 :=
  congrArg (pc + ·) (sext_append_zero d)

theorem branchTarget16_eq (pc : Word) (d : BitVec 8) : branchTarget16 pc d = pc + 2#32 * d.signExtend 32 :=
  congrArg (pc + ·) (sext_append_zero d)

/-! ## Branches (42_branch_jump.md R331, R332, R340 to R346; 46_16bit.md R544 to R546) -/

theorem State.linkIf_eq (s : State) (link : Bool) (w : Width) :
    s.linkIf link w = { s with gpr := (s.linkIf link w).gpr } := by
  cases link <;> rfl

/-- Only a linking form may write a register, and only r3. -/
theorem sameRegs_linkIf (s : State) (link writes : Bool) (w : Width) :
    SameRegs (if link then [3#5] else []) s (s.linkIf (link && writes) w) := by
  cases link with
  | false => exact fun _ _ => rfl
  | true =>
    cases writes with
    | false => exact fun _ _ => rfl
    | true => exact sameRegs_setR s linkReg (s.linkValue w)

/-- CNT after a branch (42_branch_jump.md R332). -/
def State.branchCnt (s : State) (c : Cond) : Word := if c = .cnz ∧ s.cnt ≠ 0#32 then s.cnt - 1#32 else s.cnt

/-- A taken branch: CNZ holds, so CNT is not 0. -/
theorem State.countDown_of_holds {s t : State} {c : Cond} (hc : s.condHolds c = true) (ht : t.cnt = s.cnt) :
    t.countDown c = { t with cnt := s.branchCnt c } := by
  unfold State.countDown State.branchCnt
  by_cases hcnz : c = .cnz
  · subst hcnz
    have hcnt : s.cnt ≠ 0#32 := bne_iff_ne.mp hc
    rw [if_pos rfl, if_pos ⟨rfl, hcnt⟩, ht]
  · rw [if_neg hcnz, if_neg fun h => hcnz h.1, ← ht]

/-- A branch not taken: CNZ fails, so CNT is 0. -/
theorem State.branchCnt_of_not_holds {s : State} {c : Cond} (hc : s.condHolds c = false) : s.branchCnt c = s.cnt := by
  refine if_neg ?_
  rintro ⟨rfl, hcnt⟩
  exact hcnt (bne_eq_false_iff_eq.mp hc)

/-- What a branch writes, taken or not: r3, CNT and the pc. -/
theorem branchTo_eq (w : Width) (c : Cond) (link : Bool) (target : Word) (s : State) :
    branchTo w c link target s = .next { s with
      gpr := (s.linkIf (link && (s.condHolds c || s.cfg.blLinkUncond)) w).gpr
      cnt := s.branchCnt c
      pc := if s.condHolds c then target else s.npc w } := by
  unfold branchTo
  cases hc : s.condHolds c with
  | true =>
    have hcnt : (s.linkIf link w).cnt = s.cnt := by rw [s.linkIf_eq link]
    rw [if_pos rfl, if_pos rfl, State.countDown_of_holds hc hcnt, s.linkIf_eq link, Bool.true_or, Bool.and_true]
    rfl
  | false =>
    rw [if_neg Bool.false_ne_true, if_neg Bool.false_ne_true, State.linkIf_eq, State.branchCnt_of_not_holds hc]
    rfl

theorem completes_branchTo (w : Width) (c : Cond) (link : Bool) (target : Word) (s : State) :
    Completes (branchTo w c link target s) (Branches w c link target s) := by
  refine ⟨_, branchTo_eq w c link target s, fun hc => if_pos hc, fun hc => if_neg (ne_true_of_eq_false hc), rfl,
    ?linked, ?kept, jumpFrame_of_gpr (sameRegs_linkIf s link _ w)⟩
  case linked =>
    rintro rfl hwrites
    have hlink : (true && (s.condHolds c || s.cfg.blLinkUncond)) = true := by simpa using hwrites
    rw [hlink]
    exact linkIf_r3 s w target
  case kept =>
    rintro rfl hc huncond
    rw [hc, huncond]
    rfl

/-- Settles O26: each form is `branchTo` at its own target. -/
theorem branchInstructions : Obligations.BranchInstructions := by
  unfold Obligations.BranchInstructions
  intro s c ra d19 d8 a
  rw [← branchTarget_eq, ← branchTarget16_eq]
  refine ⟨?bcond, ?bcondl, ?brcond, ?brcondl, ?bcond16, ?brcond16, ?brcondl16⟩
  all_goals exact completes_branchTo ..

end Sys2Proof.Machine

namespace Sys2Proof.Machine

/-! ## Two instructions in a row (43_load_store.md R393, R394) -/

theorem SameRegs.trans {l k : List (BitVec 5)} {s t u : State} (hst : SameRegs l s t) (htu : SameRegs k t u)
    (hlk : l ⊆ k) : SameRegs k s u :=
  fun i hi => (htu i hi).trans (hst i fun hl => hi (hlk hl))

theorem SameMem.trans {s t u : State} (hst : SameMem s t) (htu : SameMem t u) : SameMem s u :=
  fun a => (htu a).trans (hst a)

/-- Stores to two adjacent ranges of bytes are a store to both. -/
theorem SameMemBut.append {a : Word} {m n : Nat} {s t u : State} (hst : SameMemBut a m s t)
    (htu : SameMemBut (a + BitVec.ofNat 32 m) n t u) : SameMemBut a (m + n) s u := by
  intro b hb
  rw [htu b, hst b fun k hk => hb k (by omega)]
  intro k hk
  rw [BitVec.add_assoc, ← BitVec.ofNat_add]
  exact hb (m + k) (by omega)

theorem ComputeFrame.cfg {s t : State} {ex : List (BitVec 5)} {w : Width} (hs : ComputeFrame ex w s t) :
    t.cfg = s.cfg := by
  obtain ⟨-, -, -, -, -, -, ⟨-, -, -, ⟨-, -, -, -, -, hcfg, -⟩, -⟩, -⟩ := hs
  exact hcfg

theorem StoreFrame.cfg {s t : State} {ex : List (BitVec 5)} {w : Width} {a : Word} {n : Nat}
    (hs : StoreFrame ex w a n s t) : t.cfg = s.cfg := by
  obtain ⟨-, -, -, -, -, ⟨-, -, -, ⟨-, -, -, -, -, hcfg, -⟩, -⟩, -⟩ := hs
  exact hcfg

theorem LoadFrame.cfg {s t : State} {ex : List (BitVec 5)} {w : Width} (hs : LoadFrame ex w s t) : t.cfg = s.cfg := by
  obtain ⟨-, -, -, -, -, -, -, ⟨-, -, -, -, -, hcfg, -⟩, -⟩ := hs
  exact hcfg

/-- A load that passes its checks passes them after a load. -/
theorem LoadReady.after_load {s t : State} {x : Acc} (h : LoadReady s x) {ex : List (BitVec 5)} {w : Width}
    (hs : LoadFrame ex w s t) : LoadReady t x := by
  have hcfg := hs.cfg
  obtain ⟨-, -, -, -, -, ⟨hpsr, -⟩, ⟨hdreg, -, -, hibrk, hdbrk⟩, -⟩ := hs
  exact h.congr hdreg hpsr hibrk hdbrk hcfg

/-- Where an access to the debug segment stops is decided by the breakpoint unit and the configuration. -/
theorem State.debugSegmentStop_congr {s t : State} (hi : t.ibrk = s.ibrk) (hb : t.dbrk = s.dbrk) (hc : t.cfg = s.cfg)
    (a : Word) (n : Nat) : t.debugSegmentStop a n = s.debugSegmentStop a n := by
  have hread (off : Nat) : t.drsegRead off = s.drsegRead off := by
    simp only [State.drsegRead, hi, hb, hc]
  simp only [State.debugSegmentStop, hread, hc]

/-- What an allowed store instruction leaves: its own registers and what holds bytes, memory in its canonical form. -/
theorem StoreReady.next_fields {w : Width} {s t : State} {x : Acc} {v : Word} {put : State → State}
    {ex : List (BitVec 5)} (h : StoreReady s x v) (hm : s.mem.wf = true)
    (ht : storeThen w s x v none put = .next t) (hput : StoreWrites ex (s.afterStore x v) (put (s.afterStore x v))) :
    ∃ m b d g c p, t = { s with mem := m, wbuf := b, dcache := d, gpr := g, scr := c, pc := p } ∧ m.wf = true := by
  rw [storeThen_ready h] at ht
  obtain ⟨-, -, hbus, -, hdrseg⟩ := h
  have hwf := State.wf_mem_afterStore hm v hbus hdrseg
  obtain ⟨m, b, d, hafter⟩ := s.afterStore_eq x v hbus hdrseg
  obtain ⟨-, g, c, hput⟩ := hput
  rw [hafter] at hwf
  rw [hput, hafter] at ht
  injection ht with ht
  exact ⟨m, b, d, g, c, _, ht.symm, hwf⟩

theorem exec_scb (rd ra : BitVec 5) (s : State) :
    exec (.scb rd ra) s = storeThen .w32 s (s.scbAccess ra) (s.r rd >>> (8 * s.combineOf ra)) none fun t =>
      State.setR { t with scr := rotateBytes (s.combineOf ra) (s.r rd) } ra (s.r ra + 4#32) := rfl

/-- What `scb` leaves for the checks of the next store. -/
theorem StoreReady.after_scb {s t : State} {rd ra : BitVec 5}
    (h : StoreReady s (s.scbAccess ra) (s.r rd >>> (8 * s.combineOf ra))) (hm : s.mem.wf = true)
    (ht : exec (.scb rd ra) s = .next t) :
    t.mem.wf = true ∧ t.cfg = s.cfg ∧ ∀ x v, StoreReady s x v → StoreReady t x v := by
  rw [exec_scb] at ht
  obtain ⟨m, b, d, g, c, p, e, hwf⟩ := h.next_fields hm ht (storeWrites_setR _ _ _).of_scr
  have hstop := State.debugSegmentStop_congr (s := s) (t := t) (by rw [e]) (by rw [e]) (by rw [e])
  subst e
  refine ⟨hwf, rfl, ?_⟩
  rintro x v ⟨hbreak, haddr, hbus, hnostop, hdrseg⟩
  exact ⟨hbreak, haddr, hbus, (hstop _ _).trans hnostop, hdrseg⟩

/-! ## Words at any address -/

/-- A word by its bytes. -/
theorem State.word_congr {s t : State} {a : Word} (hcfg : t.cfg = s.cfg)
    (h : ∀ k < 4, t.readByte (a + BitVec.ofNat 32 k) = s.readByte (a + BitVec.ofNat 32 k)) : t.word a = s.word a := by
  apply BitVec.eq_of_getLsbD_eq
  intro i hi
  rw [State.getLsbD_word _ a hi, State.getLsbD_word _ a hi, hcfg, byteAddr, h _ (by split <;> omega)]

/-- In big endian the word at an offset in an aligned word is the end of that word above the start of the next. -/
theorem State.word_add_offset {s : State} (hbe : s.cfg.bigEndian = true) (wa : Word) {n : Nat} (hn : n ≤ 3) :
    s.word (wa + BitVec.ofNat 32 n) = (s.word wa <<< (8 * n)) ||| (s.word (wa + 4#32) >>> (32 - 8 * n)) := by
  have hbyte (a : Word) {i : Nat} (hi : i < 32) :
      (s.word a).getLsbD i = (s.readByte (a + BitVec.ofNat 32 (3 - i / 8))).getLsbD (i % 8) := by
    rw [s.getLsbD_word a hi, hbe, byteAddr, if_pos rfl]
  apply BitVec.eq_of_getLsbD_eq
  intro i hi
  rw [hbyte _ hi, BitVec.add_assoc, ← BitVec.ofNat_add, BitVec.getLsbD_or, BitVec.getLsbD_shiftLeft,
    BitVec.getLsbD_ushiftRight]
  by_cases hlow : i < 8 * n
  · rw [hbyte (wa + 4#32) (by omega), BitVec.add_assoc, ← BitVec.ofNat_add,
      show 4 + (3 - (32 - 8 * n + i) / 8) = n + (3 - i / 8) by omega, show (32 - 8 * n + i) % 8 = i % 8 by omega]
    simp [hlow]
  · rw [hbyte _ (by omega), show 3 - (i - 8 * n) / 8 = n + (3 - i / 8) by omega, show (i - 8 * n) % 8 = i % 8 by omega,
      BitVec.getLsbD_of_ge _ (32 - 8 * n + i) (by omega)]
    simp [hi, hlow]

/-- Four bytes on, the offset in the word is the same. -/
theorem toNat_add_four_mod (a : Word) : (a + 4#32).toNat % 4 = a.toNat % 4 := by
  rw [BitVec.toNat_add, show (4#32).toNat = 4 from rfl]
  omega

/-- Four bytes on is in the next word. -/
theorem wordAddr_add_four (a : Word) : wordAddr (a + 4#32) = wordAddr a + 4#32 := by
  have h := wordAddr_add_offset (a + 4#32)
  rw [toNat_add_four_mod] at h
  apply (BitVec.add_left_inj (BitVec.ofNat 32 (a.toNat % 4))).mp
  rw [h, BitVec.add_assoc, BitVec.add_comm 4#32, ← BitVec.add_assoc, wordAddr_add_offset]

/-- In big endian `byte` is the offset of the address in its word. -/
theorem State.combineOf_big {s : State} (hbe : s.cfg.bigEndian = true) (ra : BitVec 5) :
    s.combineOf ra = (s.r ra).toNat % 4 := by
  rw [s.combineOf_eq ra, if_pos hbe]

theorem State.combineWord_add_offset {s : State} (hbe : s.cfg.bigEndian = true) (ra : BitVec 5) :
    s.combineWord ra + BitVec.ofNat 32 (s.combineOf ra) = s.r ra := by
  rw [State.combineOf_big hbe]
  exact wordAddr_add_offset _

/-- On a word boundary the base is the aligned word's address. -/
theorem State.combineWord_of_aligned {s : State} (hbe : s.cfg.bigEndian = true) {ra : BitVec 5} (h : s.combineOf ra = 0) :
    s.combineWord ra = s.r ra := by
  rw [← State.combineWord_add_offset hbe ra, h, BitVec.add_zero]

/-- In big endian the word at the base is the end of its aligned word above the start of the next. -/
theorem State.word_base {s : State} (hbe : s.cfg.bigEndian = true) (ra : BitVec 5) :
    s.word (s.r ra) = (s.word (s.combineWord ra) <<< (8 * s.combineOf ra)) |||
      (s.word (s.combineWord ra + 4#32) >>> (32 - 8 * s.combineOf ra)) := by
  rw [← State.word_add_offset hbe _ (s.combineOf_le ra), State.combineWord_add_offset hbe]

/-- What the first instruction of a pair leaves to the second: the next word at the same offset. -/
theorem State.combine_next {s t : State} {ra : BitVec 5} (hbe : s.cfg.bigEndian = true) (hcfg : t.cfg = s.cfg)
    (hra : t.r ra = s.r ra + 4#32) : t.combineOf ra = s.combineOf ra ∧ t.combineWord ra = s.combineWord ra + 4#32 := by
  rw [State.combineOf_big hbe, State.combineOf_big (hcfg ▸ hbe), State.combineWord, State.combineWord, hra]
  exact ⟨toNat_add_four_mod _, wordAddr_add_four _⟩

theorem add_four_add_four (a : Word) : a + 4#32 + 4#32 = a + 8#32 := by
  rw [BitVec.add_assoc]; rfl

/-! ## The unaligned load (43_load_store.md R393) -/

theorem exec_lcb (ra : BitVec 5) (s : State) :
    exec (.lcb ra) s = loadThen .w32 s (.at (s.combineWord ra) 4) none fun v t =>
      State.setR { t with lcr := v } ra (s.r ra + 4#32) := rfl

theorem State.wf_exec_lcb {s t : State} {ra : BitVec 5} (h : s.Wf = true) (ht : exec (.lcb ra) s = .next t) :
    t.Wf = true := by
  rw [exec_lcb] at ht
  refine wf_loadThen h ?_ ht
  exact fun _ u hu => State.wf_congr (s := u) rfl rfl rfl rfl rfl rfl hu

/-- Settles O34: `lcb` leaves the first of two aligned words in LCR, and `lce` combines it with the second. -/
theorem unalignedLoad : Obligations.UnalignedLoad := by
  unfold Obligations.UnalignedLoad
  intro s rd ra hwf hbe hne hfirst hsecond
  obtain ⟨hlcb, -, -⟩ := loadCombine s rd ra _ (s.combineWord ra) (s.combineOf_eq ra) rfl
  obtain ⟨t, ht, hlcr, hbase, -, -, -, -, hframe⟩ := hlcb hfirst
  obtain ⟨hoff, hnext⟩ := State.combine_next hbe hframe.cfg hbase
  obtain ⟨-, hlce, haligned⟩ := loadCombine t rd ra _ (t.combineWord ra) (t.combineOf_eq ra) rfl
  rw [hoff] at hlce haligned
  have hlist : [ra] ⊆ [rd, ra] := List.subset_cons_self _ _
  by_cases h0 : s.combineOf ra = 0
  case pos =>
    obtain ⟨-, hregs, -, hmem, -⟩ := hframe
    obtain ⟨u, hu, hvalues, ⟨-, hregs', -, hmem', -⟩, -⟩ := haligned h0
    obtain ⟨hrd, hra⟩ := hvalues hne
    refine ⟨t, u, ht, hu, ?value, ?base, hregs.trans hregs' hlist, (hmem hwf).trans hmem'⟩
    case value => rw [hrd, hlcr, State.combineWord_of_aligned hbe h0]
    case base => rw [hra, hbase, add_four_add_four]
  case neg =>
    have ready : LoadReady t (.at (t.combineWord ra) 4) := by
      rw [hnext]
      exact (hsecond (State.combineOf_big hbe ra ▸ h0)).after_load hframe
    have hcfg := hframe.cfg
    obtain ⟨-, hregs, -, hmem, -⟩ := hframe
    obtain ⟨u, hu, hvalues, -, -, -, -, -, -, hregs', -, hmem', -⟩ := hlce (.lce rd ra) (.inr ⟨rfl, h0⟩) ready
    obtain ⟨hrd, hra⟩ := hvalues hne
    have hword : t.word (s.combineWord ra + 4#32) = s.word (s.combineWord ra + 4#32) :=
      State.word_congr hcfg fun _ _ => hmem hwf _
    refine ⟨t, u, ht, hu, ?value, ?base, hregs.trans hregs' hlist,
      (hmem hwf).trans (hmem' (State.wf_exec_lcb hwf ht))⟩
    case value => rw [hrd, hlcr, hnext, hword, State.word_base hbe]
    case base => rw [hra, hbase, add_four_add_four]

/-! ## The unaligned store (43_load_store.md R394) -/

theorem getLsbD_ones_shiftLeft (k : Nat) {i : Nat} (hi : i < 32) :
    (0xFFFFFFFF#32 <<< k).getLsbD i = decide (k ≤ i) := by
  rw [BitVec.getLsbD_shiftLeft, show 0xFFFFFFFF#32 = BitVec.allOnes 32 from rfl, BitVec.getLsbD_allOnes]
  simp only [← decide_not, ← Bool.decide_and]
  exact decide_eq_decide.mpr (by omega)

/-- The high bits of a word rotated right are its low bits. -/
theorem rotateRight_ushiftRight {k : Nat} (hk : k < 32) (d : Word) :
    d.rotateRight k >>> (32 - k) = d &&& ~~~(0xFFFFFFFF#32 <<< k) := by
  apply BitVec.eq_of_getLsbD_eq
  intro i hi
  rw [BitVec.getLsbD_ushiftRight, BitVec.getLsbD_rotateRight, BitVec.getLsbD_and, BitVec.getLsbD_not,
    getLsbD_ones_shiftLeft k hi, Nat.mod_eq_of_lt hk]
  by_cases hlow : i < k
  · simp [hi, hlow, show 32 - k + i < 32 by omega]
  · simp [show k ≤ i by omega, show ¬ 32 - k + i < 32 by omega]

/-- A word's high bits, whatever stood above them, and its low bits. -/
theorem high_or_low (k : Nat) (x d : Word) :
    (((x &&& ~~~(0xFFFFFFFF#32 >>> k)) ||| (d >>> k)) <<< k) ||| (d &&& ~~~(0xFFFFFFFF#32 <<< k)) = d := by
  apply BitVec.eq_of_getLsbD_eq
  intro i hi
  rw [BitVec.getLsbD_or, BitVec.getLsbD_shiftLeft, BitVec.getLsbD_or, BitVec.getLsbD_and, BitVec.getLsbD_and,
    BitVec.getLsbD_not, BitVec.getLsbD_not, getLsbD_mask k (by omega), getLsbD_ones_shiftLeft k hi,
    BitVec.getLsbD_ushiftRight]
  by_cases hlow : i < k
  · simp [hi, hlow]
  · simp [hi, hlow, show k ≤ i by omega, show i - k < 32 - k by omega]

/-- Shifted down, the high bits of one word above the low bits of another are those of the first. -/
theorem masked_ushiftRight (k : Nat) (c y : Word) :
    ((c &&& ~~~(0xFFFFFFFF#32 >>> k)) ||| (y &&& (0xFFFFFFFF#32 >>> k))) >>> (32 - k) = c >>> (32 - k) := by
  apply BitVec.eq_of_getLsbD_eq
  intro i _
  rw [BitVec.getLsbD_ushiftRight, BitVec.getLsbD_ushiftRight]
  by_cases hin : 32 - k + i < 32
  · rw [BitVec.getLsbD_or, BitVec.getLsbD_and, BitVec.getLsbD_and, BitVec.getLsbD_not, getLsbD_mask k hin]
    simp [hin]
  · rw [BitVec.getLsbD_of_ge _ _ (not_lt.mp hin), BitVec.getLsbD_of_ge _ _ (not_lt.mp hin)]

/-- A store of at most four bytes at the next word leaves this one. -/
theorem SameMemBut.word_eq {wa : Word} {n : Nat} {s t : State} (h : SameMemBut (wa + 4#32) n s t) (hn : n ≤ 4)
    (hcfg : t.cfg = s.cfg) : t.word wa = s.word wa := by
  refine State.word_congr hcfg fun k hk => h _ fun j hj heq => ?_
  rw [BitVec.add_assoc, BitVec.add_right_inj] at heq
  have hnat := congrArg BitVec.toNat heq
  rw [← BitVec.ofNat_add, BitVec.toNat_ofNat, BitVec.toNat_ofNat] at hnat
  omega

/-- After `scb` the bytes for `sce` are the first of the next word. -/
theorem State.sceAccess_next {s t : State} {ra : BitVec 5} (hbe : s.cfg.bigEndian = true) (hcfg : t.cfg = s.cfg)
    (hbase : t.r ra = s.r ra + 4#32) :
    t.sceAccess ra = ⟨s.combineWord ra + 4#32, s.combineOf ra, s.combineWord ra + 4#32⟩ := by
  obtain ⟨hoff, hnext⟩ := State.combine_next hbe hcfg hbase
  rw [State.sceAccess, hoff, hnext, if_pos (hcfg ▸ hbe)]

/-- The bytes that `scb` stores end where the next word begins. -/
theorem State.base_add_rest {s : State} (hbe : s.cfg.bigEndian = true) (ra : BitVec 5) :
    s.r ra + BitVec.ofNat 32 (4 - s.combineOf ra) = s.combineWord ra + 4#32 := by
  have hle := s.combineOf_le ra
  rw [← State.combineWord_add_offset hbe, BitVec.add_assoc, ← BitVec.ofNat_add, Nat.add_sub_cancel' (by omega)]

/-- Settles O35: `scb` stores the source's high bytes and leaves the others at the top of SCR, and `sce` stores these. -/
theorem unalignedStore : Obligations.UnalignedStore := by
  unfold Obligations.UnalignedStore
  intro s rd ra n hm hbe _ hn hfirst hsecond
  obtain rfl : n = s.combineOf ra := hn.trans (State.combineOf_big hbe ra).symm
  have hle := s.combineOf_le ra
  obtain ⟨hscb, -, -⟩ := storeCombine s rd ra _ (s.combineWord ra) (s.combineOf_eq ra) rfl hm
  obtain ⟨t, ht, hword, hscr, -, -, hbase, -, hregs, -, hother, -⟩ := hscb hfirst
  rw [show (s.scbAccess ra).addr = s.r ra from if_pos hbe] at hother
  obtain ⟨htm, hcfg, hready⟩ := hfirst.after_scb hm ht
  obtain ⟨hoff, hnext⟩ := State.combine_next hbe hcfg hbase
  obtain ⟨-, -, hsce, haligned⟩ := storeCombine t rd ra _ (t.combineWord ra) (t.combineOf_eq ra) rfl htm
  rw [hoff] at hsce haligned
  by_cases h0 : s.combineOf ra = 0
  case pos =>
    obtain ⟨u, hu, hra, hframe, -⟩ := haligned h0
    have hcfg' := hframe.cfg
    obtain ⟨-, hregs', -, hmem, -⟩ := hframe
    refine ⟨t, u, ht, hu, ?word, ?other, ?base, hregs.trans hregs' (List.Subset.refl _)⟩
    case word =>
      rw [State.word_congr hcfg' fun _ _ => hmem _, ← State.combineWord_of_aligned hbe h0, hword, h0]
      simp
    case other =>
      rw [h0] at hother
      exact fun b hb => (hmem b).trans (hother b hb)
    case base => rw [hra, hbase, add_four_add_four]
  case neg =>
    have hlow : t.scr >>> (32 - 8 * s.combineOf ra) = s.r rd &&& ~~~(0xFFFFFFFF#32 <<< (8 * s.combineOf ra)) := by
      rw [hscr, rotateRight_ushiftRight (by omega)]
    have ready : StoreReady t (t.sceAccess ra) (t.scr >>> (32 - 8 * s.combineOf ra)) := by
      rw [State.sceAccess_next hbe hcfg hbase, hlow]
      exact hready _ _ (hsecond h0)
    obtain ⟨u, hu, hword', hra, hframe, -⟩ := hsce h0 ready
    have hcfg' := hframe.cfg
    obtain ⟨-, hregs', -, hother', -⟩ := hframe
    rw [State.sceAccess_next hbe hcfg hbase] at hother'
    refine ⟨t, u, ht, hu, ?word, ?other, ?base, hregs.trans hregs' (List.Subset.refl _)⟩
    case word =>
      rw [hnext] at hword'
      rw [← State.combineWord_add_offset hbe, State.word_add_offset (hcfg'.trans hcfg ▸ hbe) _ hle,
        hother'.word_eq (by omega) hcfg', hword, hword', masked_ushiftRight, hlow, high_or_low]
    case other =>
      rw [← State.base_add_rest hbe] at hother'
      have hboth := hother.append hother'
      rwa [Nat.sub_add_cancel (by omega)] at hboth
    case base => rw [hra, hbase, add_four_add_four]

end Sys2Proof.Machine

namespace Sys2Proof.Machine

/-! ## What an instruction of the custom engine leaves (44_ce_cop.md R420) -/

/-- An instruction that writes general registers, CEH and CEL only. -/
theorem ceFrame_of_gpr {s : State} {ex : List (BitVec 5)} {g : Vector Word 32} {h l : Word} {k : Nat}
    (hr : SameRegs ex s { s with gpr := g, ceh := h, cel := l, freeCtr := k }) (w : Width) :
    CeFrame ex w s (State.advance { s with gpr := g, ceh := h, cel := l, freeCtr := k } w) :=
  ⟨rfl, hr, rfl, fun _ => rfl, ⟨rfl, rfl, rfl⟩,
    ⟨⟨rfl, rfl, rfl, rfl, rfl, rfl, rfl, rfl⟩, ⟨rfl, rfl, rfl, rfl, rfl⟩, ⟨rfl, rfl, rfl⟩,
      ⟨rfl, rfl, rfl, rfl, rfl, rfl, rfl, rfl, rfl⟩, rfl, rfl⟩, ⟨rfl, rfl⟩⟩

theorem ceFrame_setCe (s : State) (h l : Word) (w : Width) : CeFrame [] w s ((s.setCe h l).advance w) :=
  ceFrame_of_gpr (fun _ _ => rfl) w

theorem ceFrame_freeCe (s : State) (w : Width) : CeFrame [] w s (s.freeCe.advance w) :=
  ceFrame_of_gpr (fun _ _ => rfl) w

/-- The two registers of the custom engine hold what was written to them. -/
theorem completes_setCe (s : State) (h l : Word) (w : Width) :
    Completes (done w (s.setCe h l)) fun t => CeFrame [] w s t ∧ t.cel = l ∧ t.ceh = h :=
  ⟨_, rfl, ceFrame_setCe s h l w, rfl, rfl⟩

/-! ## Products (44_ce_cop.md R421, R422) -/

/-- CEH and CEL side by side are the product. -/
theorem completes_setProduct (s : State) (p : BitVec 64) (w : Width) :
    Completes (done w (s.setProduct p)) fun t => t.ceh ++ t.cel = p ∧ CeFrame [] w s t := by
  refine ⟨_, rfl, ?product, ceFrame_setCe s _ _ w⟩
  exact (extract_split p 0 32 32).symm.trans BitVec.extractLsb'_eq_self

/-- Settles O41: the product of the integers that the registers hold, modulo 2^64. -/
theorem multiply : Obligations.Multiply := by
  unfold Obligations.Multiply
  intro s ra rb
  have hsigned : BitVec.ofInt 64 ((s.r ra).toInt * (s.r rb).toInt) = (s.r ra).signExtend 64 * (s.r rb).signExtend 64 :=
    BitVec.ofInt_mul _ _
  have hunsigned : BitVec.ofNat 64 ((s.r ra).toNat * (s.r rb).toNat) = (s.r ra).setWidth 64 * (s.r rb).setWidth 64 := by
    rw [BitVec.ofNat_mul, BitVec.ofNat_toNat, BitVec.ofNat_toNat]
  rw [← hsigned, ← hunsigned]
  exact ⟨completes_setProduct s _ .w32, completes_setProduct s _ .w32⟩

/-! ## Quotients and remainders (44_ce_cop.md R423 to R425) -/

/-- The remainder of a division that truncates is smaller than the divisor. -/
theorem abs_tmod_lt_abs (a : Int) {b : Int} (hb : b ≠ 0) : |a.tmod b| < |b| := by
  rw [Int.abs_eq_natAbs, Int.abs_eq_natAbs, Int.natAbs_tmod]
  exact_mod_cast Nat.mod_lt _ (Int.natAbs_pos.mpr hb)

/-- A division that truncates leaves no positive remainder of a dividend that is not positive. -/
theorem tmod_nonpos {a : Int} (b : Int) (ha : a ≤ 0) : a.tmod b ≤ 0 := by
  have hneg := Int.tmod_nonneg b (Int.neg_nonneg.mpr ha)
  rwa [Int.neg_tmod, Int.neg_nonneg] at hneg

/-- But for a zero divisor and -2^31 / -1, `div` is the division of words that truncates. -/
theorem exec_div {s : State} {ra rb : BitVec 5} (h0 : s.r rb ≠ 0#32)
    (hfits : ¬ (s.r ra = 0x80000000#32 ∧ s.r rb = 0xFFFFFFFF#32)) :
    exec (.div ra rb) s = done .w32 (s.setCe ((s.r ra).srem (s.r rb)) ((s.r ra).sdiv (s.r rb))) := by
  have hquot : ((s.r ra).sdiv (s.r rb)).toInt = (s.r ra).toInt.tdiv (s.r rb).toInt :=
    BitVec.toInt_sdiv_of_ne_or_ne _ _ (not_and_or.mp hfits)
  have hexec : exec (.div ra rb) s = execDiv ra rb s := rfl
  rw [hexec, execDiv, if_neg h0, if_neg (by simpa using hfits), ← hquot, ← BitVec.toInt_srem, BitVec.ofInt_toInt,
    BitVec.ofInt_toInt]

/-- But for a zero divisor `divu` is the unsigned division of words. -/
theorem exec_divu {s : State} {ra rb : BitVec 5} (h0 : s.r rb ≠ 0#32) :
    exec (.divu ra rb) s = done .w32 (s.setCe (s.r ra % s.r rb) (s.r ra / s.r rb)) := by
  have hexec : exec (.divu ra rb) s = execDivu ra rb s := rfl
  rw [hexec, execDivu, if_neg h0, ← BitVec.toNat_umod, ← BitVec.toNat_udiv, BitVec.ofNat_toNat, BitVec.ofNat_toNat,
    BitVec.setWidth_eq, BitVec.setWidth_eq]

/-- -2^31 / -1 raises nothing and leaves CEH and CEL free (log 11). -/
theorem exec_div_overflow {s : State} {ra rb : BitVec 5} (ha : s.r ra = 0x80000000#32) (hb : s.r rb = 0xFFFFFFFF#32) :
    exec (.div ra rb) s = done .w32 s.freeCe := by
  have hexec : exec (.div ra rb) s = execDiv ra rb s := rfl
  rw [hexec, execDiv, if_neg (by simp [hb]), if_pos (by simp [ha, hb])]

/-- Settles O42: `div` is `srem` and `sdiv`, `divu` is `%` and `/`, of words. -/
theorem divide : Obligations.Divide := by
  unfold Obligations.Divide
  intro s ra rb
  refine ⟨?signed, ?overflow, ?unsigned, ?byZero⟩
  case signed =>
    intro h0 hfits
    have hne : (s.r rb).toInt ≠ 0 := BitVec.toInt_ne.mpr h0
    rw [exec_div h0 hfits]
    refine (completes_setCe s _ _ .w32).mono ?_
    rintro t ⟨hframe, hcel, hceh⟩
    rw [hcel, hceh, BitVec.toInt_srem, BitVec.toInt_sdiv_of_ne_or_ne _ _ (not_and_or.mp hfits)]
    exact ⟨hframe, (Int.mul_tdiv_add_tmod _ _).symm, abs_tmod_lt_abs _ hne, Int.tmod_nonneg _, tmod_nonpos _⟩
  case overflow =>
    intro ha hb
    exact ⟨_, exec_div_overflow ha hb, ceFrame_freeCe s .w32⟩
  case unsigned =>
    intro h0
    have hpos : 0 < (s.r rb).toNat := Nat.pos_of_ne_zero (BitVec.toNat_ne_iff_ne.mpr h0)
    rw [exec_divu h0]
    refine (completes_setCe s _ _ .w32).mono ?_
    rintro t ⟨hframe, hcel, hceh⟩
    rw [hcel, hceh, BitVec.toNat_umod, BitVec.toNat_udiv]
    exact ⟨hframe, (Nat.div_add_mod _ _).symm, Nat.mod_lt _ hpos⟩
  case byZero =>
    rintro h0 i (rfl | rfl)
    all_goals exact ⟨_, _, _, if_pos h0⟩

/-! ## Moves of CEH and CEL (44_ce_cop.md R431 to R436) -/

/-- Settles O43: each is a write of general registers or of CEH and CEL. -/
theorem ceMoves : Obligations.CeMoves := by
  unfold Obligations.CeMoves
  intro s rd ra
  refine ⟨?mfcel, ?mfceh, ?mfcehl, ?mtcel, ?mtceh, ?mtcehl⟩
  case mfcel | mfceh => exact completes_setR s ..
  case mfcehl =>
    obtain ⟨-, -, -, hflags⟩ := s.setR2_rest rd s.ceh ra s.cel
    refine ⟨_, rfl, ?values, computeFrame_setR2 s rd s.ceh ra s.cel .w32, hflags⟩
    intro hne
    simp [hne]
  case mtcel | mtceh | mtcehl => exact completes_setCe s ..

/-! ## Extensions (44_ce_cop.md R440) -/

/-- The general registers that an extension writes. -/
def usdDests (u1 u2 : BitVec 5) (x : CeResult) : List (BitVec 5) :=
  (x.usd1.map fun _ => u1).toList ++ (x.usd2.map fun _ => u2).toList

theorem sameRegs_putUsd (s : State) (u1 u2 : BitVec 5) (x : CeResult) :
    SameRegs (usdDests u1 u2 x) s (s.putUsd u1 u2 x) := by
  obtain ⟨v1, v2, h, l⟩ := x
  cases v1 <;> cases v2
  case none.none => exact fun _ _ => rfl
  case none.some v => exact sameRegs_setR s u2 v
  case some.none v => exact sameRegs_setR s u1 v
  case some.some v w => exact sameRegs_setR2 s u1 v u2 w

/-- Two different USD registers hold the extension's values, or what they held. -/
theorem State.r_putUsd_of_ne (s : State) {u1 u2 : BitVec 5} (hne : u1 ≠ u2) (x : CeResult) :
    (s.putUsd u1 u2 x).r u1 = x.usd1.getD (s.r u1) ∧ (s.putUsd u1 u2 x).r u2 = x.usd2.getD (s.r u2) := by
  obtain ⟨v1, v2, h, l⟩ := x
  cases v1 <;> cases v2 <;> simp [State.putUsd, hne, hne.symm]

/-- One register that only one of the USD fields names as a destination holds that field's value. -/
theorem State.r_putUsd_same (s : State) (u : BitVec 5) (x : CeResult) :
    (x.usd1 = none → (s.putUsd u u x).r u = x.usd2.getD (s.r u)) ∧
      (x.usd2 = none → (s.putUsd u u x).r u = x.usd1.getD (s.r u)) := by
  obtain ⟨v1, v2, h, l⟩ := x
  cases v1 <;> cases v2 <;> simp [State.putUsd]

/-- An extension writes its destinations, CEH and CEL only. -/
theorem ceFrame_putCe (s : State) (u1 u2 : BitVec 5) (x : CeResult) (w : Width) :
    CeFrame (usdDests u1 u2 x) w s ((s.putCe u1 u2 x).advance w) := by
  have hr := sameRegs_putUsd (s.setCe (x.ceHigh.getD s.ceh) (x.ceLow.getD s.cel)) u1 u2 x
  obtain ⟨g, k, e⟩ := State.putUsd_eq (s.setCe (x.ceHigh.getD s.ceh) (x.ceLow.getD s.cel)) u1 u2 x
  rw [State.putCe]
  rw [e] at hr ⊢
  exact ceFrame_of_gpr hr w

/-- CEH and CEL hold the extension's values, or what they held. -/
theorem State.putCe_ce (s : State) (u1 u2 : BitVec 5) (x : CeResult) :
    (s.putCe u1 u2 x).ceh = x.ceHigh.getD s.ceh ∧ (s.putCe u1 u2 x).cel = x.ceLow.getD s.cel := by
  obtain ⟨g, k, e⟩ := State.putUsd_eq (s.setCe (x.ceHigh.getD s.ceh) (x.ceLow.getD s.cel)) u1 u2 x
  rw [State.putCe, e]
  exact ⟨rfl, rfl⟩

/-- Settles O44: `ceinst` is `State.putCe` of the extension's answer, or CeE. -/
theorem customEngine : Obligations.CustomEngine := by
  unfold Obligations.CustomEngine
  rintro s u1 ra rb u2 f x hf rfl
  have hexec : exec (.ceinst u1 ra rb u2 f) s =
      if s.pins.ceReport then raise .cee .w32 s
      else done .w32 (s.putCe u1 u2 (Config.ceOp f u1 u2 ra rb (s.r ra) (s.r rb))) := if_neg (by rw [hf]; decide)
  generalize Config.ceOp f u1 u2 ra rb (s.r ra) (s.r rb) = x at hexec ⊢
  constructor
  case left =>
    intro hquiet
    obtain ⟨hceh, hcel⟩ := s.putCe_ce u1 u2 x
    refine ⟨_, hexec.trans (if_neg (by simp [hquiet])), hceh, hcel, ?different, ?same, ceFrame_putCe s u1 u2 x .w32⟩
    case different => exact fun hne => State.r_putUsd_of_ne _ hne x
    case same =>
      rintro rfl
      exact State.r_putUsd_same _ u1 x
  case right => exact fun hreport => hexec.trans (if_pos hreport)

/-! ## Coprocessor moves and operations (44_ce_cop.md R441 to R446, R449) -/

/-- An instruction that writes registers of one coprocessor only. -/
theorem copFrame_setCop (s : State) (z : CopNum) (c : CopRegs) (w : Width) :
    CopFrame z w s ((s.setCop z c).advance w) := by
  have hother : ∀ y, y ≠ z → ((s.setCop z c).advance w).cop y = s.cop y := by
    intro y hy
    rw [State.advance_cop, State.cop_setCop, if_neg hy]
  cases z
  all_goals exact ⟨rfl, fun _ _ => rfl, rfl, fun _ => rfl, ⟨rfl, rfl⟩, ⟨rfl, rfl, rfl⟩,
    ⟨rfl, rfl, rfl, rfl, rfl, rfl, rfl, rfl⟩, ⟨rfl, rfl, rfl, rfl, rfl⟩,
    ⟨rfl, rfl, rfl, rfl, rfl, rfl, rfl, rfl, rfl⟩, rfl, rfl, ⟨rfl, rfl⟩, hother⟩

/-- Reading a control register of a coprocessor after a write. -/
theorem State.copCtrl_setCopCtrl (s : State) (z : CopNum) (k j : BitVec 5) (v : Word) :
    (s.setCopCtrl z k v).copCtrl z j = if k = j then v else s.copCtrl z j := by
  simp only [State.copCtrl, State.setCopCtrl, State.cop_setCop, if_true, Vector.getElem_set, BitVec.toNat_inj]

/-- A write of a control register leaves the data registers. -/
theorem State.copData_setCopCtrl (s : State) (z : CopNum) (k j : BitVec 5) (v : Word) :
    (s.setCopCtrl z k v).copData z j = s.copData z j := by
  simp only [State.copData, State.setCopCtrl, State.cop_setCop, if_true]

/-- A coprocessor that is usable, present and reports nothing does as it is told. -/
theorem copThen_ready {z : CopNum} {s : State} (h : CopReady s z) (t : State) : copThen z s t = done .w32 t := by
  obtain ⟨hu, hp, hr⟩ := h
  rw [copThen, whenCop_usable hu hp, State.copReport?, if_neg (by simp [hr])]

/-- A coprocessor that is usable and present and reports an exception raises CpE (60_exceptions.md R644). -/
theorem copThen_report {z : CopNum} {s : State} (hu : copBit z s.psr.cu = true) (hp : copBit z s.cfg.copPresent = true)
    (hr : copBit z s.pins.copReport = true) (t : State) :
    copThen z s t = .next (takeException (.cpe (copNumber z)) .w32 s) := by
  rw [copThen, whenCop_usable hu hp, State.copReport?, if_pos hr]
  rfl

theorem exec_mtcOf (z : CopNum) (rd cra : BitVec 5) (s : State) :
    exec (mtcOf z rd cra) s = copThen z s (s.setCopData z cra (s.r rd)) := by
  cases z <;> rfl

theorem exec_mfcOf (z : CopNum) (rd cra : BitVec 5) (s : State) :
    exec (mfcOf z rd cra) s = copThen z s (s.setR rd (s.copData z cra)) := by
  cases z <;> rfl

theorem exec_mtccOf (z : CopNum) (rd cra : BitVec 5) (s : State) :
    exec (mtccOf z rd cra) s = copThen z s (s.setCopCtrl z cra (s.r rd)) := by
  cases z <;> rfl

theorem exec_mfccOf (z : CopNum) (rd cra : BitVec 5) (s : State) :
    exec (mfccOf z rd cra) s = copThen z s (s.setR rd (s.copCtrl z cra)) := by
  cases z <;> rfl

theorem exec_copOf (z : CopNum) (crd cra crb code : BitVec 5) (s : State) :
    exec (copOf z crd cra crb code) s = copThen z s (s.setCop z (Config.copOp z (crd ++ cra ++ crb ++ code) (s.cop z))) := by
  cases z <;> rfl

/-- Settles O45: each is `copThen` of one write, of the coprocessor or of a general register. -/
theorem copMoves : Obligations.CopMoves := by
  unfold Obligations.CopMoves
  intro s z rd cra crb code
  rw [exec_mtcOf, exec_mfcOf, exec_mtccOf, exec_mfccOf, exec_copOf]
  refine ⟨fun hready => ?moves, fun hu hp hr => ?report⟩
  case moves =>
    simp only [copThen_ready hready]
    refine ⟨⟨_, rfl, copFrame_setCop s z _ .w32, ?data, ?otherData, ?ctrlKept⟩, completes_setR s ..,
      ⟨_, rfl, copFrame_setCop s z _ .w32, ?ctrl, ?otherCtrl, ?dataKept⟩, completes_setR s ..,
      ⟨_, rfl, copFrame_setCop s z _ .w32, ?operated⟩⟩
    case data => simp [State.copData_setCopData]
    case otherData => simp +contextual [State.copData_setCopData, eq_comm]
    case ctrlKept => simp [State.copCtrl_setCopData]
    case ctrl => simp [State.copCtrl_setCopCtrl]
    case otherCtrl => simp +contextual [State.copCtrl_setCopCtrl, eq_comm]
    case dataKept => simp [State.copData_setCopCtrl]
    case operated => simp [State.cop_setCop]
  case report =>
    rintro i hi
    have hexec : ∃ t, exec i s = copThen z s t := by
      rcases hi with rfl | rfl | rfl | rfl | rfl
      exacts [⟨_, exec_mtcOf ..⟩, ⟨_, exec_mfcOf ..⟩, ⟨_, exec_mtccOf ..⟩, ⟨_, exec_mfccOf ..⟩, ⟨_, exec_copOf ..⟩]
    obtain ⟨t, ht⟩ := hexec
    rw [ht, copThen_report hu hp hr]

end Sys2Proof.Machine

namespace Sys2Proof.Machine

/-! ## Traps (45_system.md R461, R462) -/

/-- An instruction that does nothing but go on. -/
theorem completes_advance (s : State) (w : Width) :
    Completes (done w s) fun t => ComputeFrame [] w s t ∧ SameFlags s t :=
  ⟨_, rfl, computeFrame_advance s w, rfl⟩

/-- `trap<cond>` past its privilege test. -/
theorem exec_trapcond_allowed {s : State} (h : s.cfg.trapPrivileged = false ∨ s.crOk = true) (p : BitVec 5) (c : Cond) :
    exec (.trapcond p c) s =
      if c = .cnz then done .w32 s else if s.condHolds c then raise .trap .w32 s else done .w32 s := by
  refine if_neg ?_
  rcases h with h | h <;> simp [h]

/-- Settles O48: the privilege test comes first, then EC = 14, then the condition. -/
theorem syscallTrap : Obligations.SyscallTrap := by
  unfold Obligations.SyscallTrap
  intro s spar p c
  refine ⟨rfl, fun hallowed => ?allowed, fun hpriv hcr => if_pos (by simp [hpriv, hcr])⟩
  rw [exec_trapcond_allowed hallowed]
  constructor
  · intro hc hholds
    rw [if_neg hc, if_pos hholds, raise]
  · rintro (hc | hfails)
    · rw [if_pos hc]
      exact completes_advance s .w32
    · rw [if_neg (Bool.eq_false_iff.mp hfails), ite_self]
      exact completes_advance s .w32

/-! ## Debug entry and re-entry (60_exceptions.md R680, R682) -/

theorem savedM_eq_true_iff (s : State) (w : Width) : savedM s false w = true ↔ w = .w16 := by
  simp [savedM]

theorem exceptionFrame_debugEnter (y : DebugExc) (w : Width) (s : State) : ExceptionFrame s (debugEnter y w s) :=
  ⟨fun _ _ => rfl, fun _ => rfl, ⟨rfl, rfl⟩, ⟨rfl, rfl, rfl⟩, ⟨rfl, rfl, rfl⟩, rfl, rfl, rfl, rfl, rfl, rfl, rfl, rfl,
    rfl, rfl, rfl, rfl, rfl, ⟨rfl, rfl⟩⟩

theorem exceptionFrame_debugReenter (x : Exc) (w : Width) (s : State) : ExceptionFrame s (debugReenter x w s) :=
  ⟨fun _ _ => rfl, fun _ => rfl, ⟨rfl, rfl⟩, ⟨rfl, rfl, rfl⟩, ⟨rfl, rfl, rfl⟩, rfl, rfl, rfl, rfl, rfl, rfl, rfl, rfl,
    rfl, rfl, rfl, rfl, rfl, ⟨rfl, rfl⟩⟩

/-- DEPC.M is the width of the instruction where the debug exception defines it. -/
theorem debugEnter_depc_m {y : DebugExc} (hy : y = .dbp ∨ y = .ddbla ∨ y = .ddbs) (w : Width) (s : State) :
    (debugEnter y w s).depc.m = true ↔ w = .w16 := by
  rcases hy with rfl | rfl | rfl <;> exact savedM_eq_true_iff s w

/-- A re-entry finds DM set and leaves it so. -/
theorem debugReenter_dreg {s : State} (h : s.dreg.dm = true) (x : Exc) (w : Width) :
    (debugReenter x w s).dreg = { s.dreg with cause := DebugCause.none, dExcCode := x.code } := by
  show ({ s.dreg with dm := true, cause := DebugCause.none, dExcCode := x.code } : Dreg) = _
  rw [← h]

theorem takeException_of_debug {s : State} (h : s.dreg.dm = true) (x : Exc) (w : Width) :
    takeException x w s = debugReenter x w s := if_pos h

theorem takeException_of_not_debug {s : State} (h : s.dreg.dm = false) (x : Exc) (w : Width) :
    takeException x w s = enterNormal x w s := if_neg (by simp [h])

/-- Settles O50: an entry writes the listed fields of the state, and the frame is the rest. -/
theorem debugEntryReentry : Obligations.DebugEntryReentry := by
  unfold Obligations.DebugEntryReentry
  intro s k y x w
  refine ⟨?outside, ?inside, ?entry, ?reentry⟩
  case outside => exact fun h => ⟨if_neg (by simp [h]), if_neg (by simp [h])⟩
  case inside =>
    intro h
    have hexec : exec (.sdbbp k) s = done .w32 s := if_pos h
    have hexec16 : exec (.sdbbp16 k) s = done .w16 s := if_pos h
    rw [hexec, hexec16]
    exact ⟨completes_advance s .w32, completes_advance s .w16⟩
  case entry =>
    rintro _ rfl
    exact ⟨rfl, fun hy => debugEnter_depc_m hy w s, rfl, rfl, rfl, rfl, rfl, rfl, rfl, rfl, rfl,
      exceptionFrame_debugEnter y w s⟩
  case reentry =>
    rintro _ h rfl
    rw [takeException_of_debug h]
    exact ⟨rfl, debugReenter_dreg h x w, rfl, rfl, rfl, rfl, rfl, exceptionFrame_debugReenter x w s⟩

/-! ## `rte` (45_system.md R470) -/

theorem exec_rte {s : State} (h : s.crOk = true) : exec .rte s = .next (returnFromException s) :=
  whenCrOk_of_crOk h _

/-- An entry from outside debug mode leaves kernel mode, where control-register instructions may run. -/
theorem crOk_enterNormal (x : Exc) (w : Width) (s : State) : (enterNormal x w s).crOk = true := by
  simp [State.crOk, enterNormal, Psr.push]

/-- A saved pc is the pc with bit 0 clear (60_exceptions.md R650). -/
theorem extract_append_zero (a : Word) : a.extractLsb' 1 31 ++ 0#1 = a &&& 0xFFFFFFFE#32 := by
  have hmask : ∀ i, i < 32 → (0xFFFFFFFE#32).getLsbD i = decide (1 ≤ i) := by decide
  apply BitVec.eq_of_getLsbD_eq
  intro i hi
  rw [BitVec.getLsbD_append, BitVec.getLsbD_and, hmask i hi]
  by_cases h0 : i < 1
  · simp [show i = 0 by omega]
  · simp [h0, show i - 1 < 31 by omega, show 1 + (i - 1) = i by omega, show 1 ≤ i by omega]

/-- Settles O53: the pop of what the push of an entry has left. -/
theorem returnFromException_undoes_entry : Obligations.ReturnFromException := by
  unfold Obligations.ReturnFromException
  constructor
  case left =>
    intro s h
    exact ⟨_, exec_rte h, rfl, rfl, rfl, rfl, rfl, rfl, rfl, rfl, rfl, rfl, rfl, rfl, rfl, fun _ _ => rfl,
      fun _ => rfl, ⟨rfl, rfl⟩, ⟨rfl, rfl⟩, ⟨rfl, rfl, rfl⟩, ⟨rfl, rfl, rfl, rfl, rfl⟩, ⟨rfl, rfl, rfl⟩,
      ⟨rfl, rfl, rfl, rfl, rfl, rfl, rfl, rfl, rfl⟩, rfl⟩
  case right =>
    intro s x w h
    rw [takeException_of_not_debug h]
    exact ⟨_, exec_rte (crOk_enterNormal x w s), rfl, rfl, rfl, rfl, rfl, rfl, extract_append_zero s.pc,
      fun _ _ => rfl, fun _ => rfl, ⟨rfl, rfl⟩⟩

/-! ## `sleep` (45_system.md R476) -/

theorem exec_sleep {s : State} (h : s.crOk = true) : exec .sleep s = done .w32 { s with sleeping := true } :=
  whenCrOk_of_crOk h _

/-- A sleeping core that nothing wakes remembers an NMI edge and uses up its inputs. -/
theorem step_asleep {s : State} (hs : s.sleeping = true) (hr : s.pins.reset = false)
    (hw : s.beginStep.wakes = false) : step s = .next s.beginStep.nextInputs := by
  have hs' : s.beginStep.sleeping = true := hs
  rw [step, if_neg (by simp [hr]), runStep, if_pos (by simp [hs', hw])]

/-- In debug mode nothing wakes the core; outside it DINT, a remembered NMI edge or an accepted interrupt does. -/
theorem State.wakes_beginStep_eq_false {s : State}
    (h : s.dreg.dm = true ∨ (s.pins.dint = false ∧ s.nmiPending = false ∧ s.pins.nmi = false ∧
      ¬ (s.psr.iec = true ∧ s.psr.im.toNat / 4 < s.pins.irq.toNat))) : s.beginStep.wakes = false := by
  have hwakes : s.beginStep.wakes =
      (!s.dreg.dm && (s.pins.dint || (s.nmiPending || s.pins.nmi) || s.interruptAccepted)) := rfl
  rw [hwakes]
  rcases h with hd | ⟨hdint, hpending, hnmi, hirq⟩
  · simp [hd]
  · rw [← State.interruptAccepted_iff] at hirq
    simp [hdint, hpending, hnmi, hirq]

/-- Settles O57: the step of a core that stays asleep ends at the wake test. -/
theorem sleepAndWake : Obligations.SleepAndWake := by
  unfold Obligations.SleepAndWake
  intro s
  constructor
  case left =>
    intro h
    exact ⟨_, exec_sleep h, rfl, rfl, fun _ _ => rfl, rfl, fun _ => rfl, ⟨rfl, rfl⟩, ⟨rfl, rfl⟩, ⟨rfl, rfl, rfl⟩,
      ⟨rfl, rfl, rfl, rfl, rfl, rfl, rfl, rfl⟩, ⟨rfl, rfl, rfl, rfl, rfl⟩, ⟨rfl, rfl, rfl⟩, rfl, rfl, rfl⟩
  case right =>
    intro hs hr hquiet
    exact step_asleep hs hr (State.wakes_beginStep_eq_false hquiet)

end Sys2Proof.Machine

namespace Sys2Proof.Machine

/-! ## The words of the control registers (10_state.md R33 to R51) -/

/-- The field at bit `k` of a register after a write of `v`: the bits of a mask are new, the others are old. -/
def merged {n : Nat} (v : Word) (k : Nat) (m old : BitVec n) : BitVec n := (v.extractLsb' k n &&& m) ||| (old &&& ~~~m)

/-- Two fields are written side by side. The lemmas below name the width `j` of each lower field, since `simp` cannot
split the 32 of a register into `i + j` by itself. -/
theorem merged_append {i j : Nat} (v : Word) (k : Nat) (mh oh : BitVec i) (ml ol : BitVec j) :
    merged v k (mh ++ ml) (oh ++ ol) = merged v (k + j) mh oh ++ merged v k ml ol := by
  have hsplit : v.extractLsb' k (i + j) = v.extractLsb' (k + j) i ++ v.extractLsb' k j :=
    (BitVec.extractLsb'_append_extractLsb'_eq_extractLsb' rfl).symm
  simp only [merged, hsplit, BitVec.and_append, BitVec.or_append, BitVec.not_append]

/-- A writable field takes the bits written. -/
theorem merged_allOnes {n : Nat} (v : Word) (k : Nat) (old : BitVec n) :
    merged v k (BitVec.allOnes n) old = v.extractLsb' k n := by
  simp [merged]

/-- A read-only field stays. -/
theorem merged_zero {n : Nat} (v : Word) (k : Nat) (old : BitVec n) : merged v k 0#n old = old := by
  simp [merged]

/-- A whole register after a write. -/
theorem merged_word (v m old : Word) : merged v 0 m old = (v &&& m) ||| (old &&& ~~~m) := by
  rw [merged, BitVec.extractLsb'_eq_self]

/-- A register all of whose bits are writable. -/
theorem merged_allOnes_word (v old : Word) : v = merged v 0 0xFFFFFFFF#32 old :=
  ((merged_allOnes v 0 old).trans BitVec.extractLsb'_eq_self).symm

theorem b1_getLsbD (v : Word) (k : Nat) : b1 (v.getLsbD k) = v.extractLsb' k 1 := by
  apply BitVec.eq_of_getLsbD_eq
  intro i hi
  simp [b1, show i = 0 by omega]

theorem flagBits_flagsOfBits (w : BitVec 5) : flagBits (flagsOfBits w) = w := by
  revert w
  decide

/-! For each register: its mask is laid out in the register's own fields, each of them writable or not. -/

theorem psrWord_write (e : Bool) (p : Psr) (v : Word) :
    psrWord e (psrOfWord v) = merged v 0 0xF0FF003F#32 (psrWord e p) := by
  have hmask : 0xF0FF003F#32 =
      BitVec.allOnes 3 ++ BitVec.allOnes 1 ++ 0#4 ++ BitVec.allOnes 8 ++ 0#1 ++ 0#9 ++ BitVec.allOnes 1 ++
        BitVec.allOnes 1 ++ BitVec.allOnes 1 ++ BitVec.allOnes 1 ++ BitVec.allOnes 1 ++ BitVec.allOnes 1 := by decide
  simp only [hmask, psrWord, merged_append (j := 1), merged_append (j := 4), merged_append (j := 8),
    merged_append (j := 9), merged_allOnes, merged_zero, psrOfWord, b1_getLsbD, Nat.reduceAdd]

theorem condWord_write (c : CondReg) (v : Word) :
    condWord (condOfWord v) = merged v 0 0x7FFF#32 (condWord c) := by
  have hmask : 0x7FFF#32 = 0#17 ++ BitVec.allOnes 5 ++ BitVec.allOnes 5 ++ BitVec.allOnes 5 := by decide
  simp only [hmask, condWord, merged_append (j := 5), merged_allOnes, merged_zero, condOfWord,
    flagBits_flagsOfBits, Nat.reduceAdd]

theorem ecrWord_write (irq : BitVec 6) (e : Ecr) (v : Word) :
    ecrWord irq { e with softIp := v.extractLsb' 16 2 } = merged v 0 0x30000#32 (ecrWord irq e) := by
  have hmask : 0x30000#32 = 0#8 ++ 0#6 ++ BitVec.allOnes 2 ++ 0#8 ++ 0#2 ++ 0#1 ++ 0#5 := by decide
  simp only [hmask, ecrWord, merged_append (j := 1), merged_append (j := 2), merged_append (j := 5),
    merged_append (j := 6), merged_append (j := 8), merged_allOnes, merged_zero, Nat.reduceAdd]

theorem excpVecWord_write (x : ExcpVec) (v : Word) :
    excpVecWord ⟨v.extractLsb' 16 16, v.getLsbD 0⟩ = merged v 0 0xFFFF0001#32 (excpVecWord x) := by
  have hmask : 0xFFFF0001#32 = BitVec.allOnes 16 ++ 0#15 ++ BitVec.allOnes 1 := by decide
  simp only [hmask, excpVecWord, merged_append (j := 1), merged_append (j := 15), merged_allOnes,
    merged_zero, b1_getLsbD, Nat.reduceAdd]

theorem ccrWord_write (c : Ccr) (v : Word) : ccrWord (c.write v) = merged v 0 0x7C#32 (ccrWord c) := by
  have hmask : 0x7C#32 =
      0#22 ++ 0#1 ++ 0#1 ++ 0#1 ++ BitVec.allOnes 1 ++ BitVec.allOnes 1 ++ BitVec.allOnes 1 ++ BitVec.allOnes 1 ++
        BitVec.allOnes 1 ++ 0#1 ++ 0#1 := by decide
  simp only [hmask, ccrWord, Ccr.write, merged_append (j := 1), merged_allOnes, merged_zero, b1_getLsbD, Nat.reduceAdd]

theorem SavedPc.word_write (p : SavedPc) (v : Word) :
    SavedPc.word { p with addr := v.extractLsb' 1 31 } = merged v 0 0xFFFFFFFE#32 p.word := by
  have hmask : 0xFFFFFFFE#32 = BitVec.allOnes 31 ++ 0#1 := by decide
  simp only [hmask, SavedPc.word, merged_append (j := 1), merged_allOnes, merged_zero, Nat.reduceAdd]

theorem dregWord_write (probe bus : Bool) (d : Dreg) (v : Word) :
    dregWord probe bus (d.write v) = merged v 0 0x30000100#32 (dregWord probe bus d) := by
  have hmask : 0x30000100#32 =
      0#2 ++ BitVec.allOnes 1 ++ BitVec.allOnes 1 ++ 0#1 ++ 0#1 ++ 0#1 ++ 0#1 ++ 0#10 ++ 0#5 ++ BitVec.allOnes 1 ++
        0#1 ++ 0#1 ++ 0#1 ++ 0#1 ++ 0#1 ++ 0#1 ++ 0#1 ++ 0#1 := by decide
  simp only [hmask, dregWord, Dreg.write, merged_append (j := 1), merged_append (j := 5), merged_append (j := 10),
    merged_allOnes, merged_zero, b1_getLsbD, Nat.reduceAdd]

theorem b1_getLsbD_zero (b : Bool) : (b1 b).getLsbD 0 = b := by
  simp [b1]

/-- The bits of Condition above its three levels are 0, and each flag is at its bit (10_state.md R38). -/
theorem condWord_fields (c : CondReg) : condWord c &&& 0xFFFF8000#32 = 0#32 ∧
    (condWord c).getLsbD 4 = c.cur.t ∧ (condWord c).getLsbD 3 = c.cur.n ∧ (condWord c).getLsbD 2 = c.cur.z ∧
    (condWord c).getLsbD 1 = c.cur.c ∧ (condWord c).getLsbD 0 = c.cur.v ∧
    (condWord c).getLsbD 9 = c.sav.t ∧ (condWord c).getLsbD 8 = c.sav.n ∧ (condWord c).getLsbD 7 = c.sav.z ∧
    (condWord c).getLsbD 6 = c.sav.c ∧ (condWord c).getLsbD 5 = c.sav.v ∧
    (condWord c).getLsbD 14 = c.bak.t ∧ (condWord c).getLsbD 13 = c.bak.n ∧ (condWord c).getLsbD 12 = c.bak.z ∧
    (condWord c).getLsbD 11 = c.bak.c ∧ (condWord c).getLsbD 10 = c.bak.v := by
  have hmask : 0xFFFF8000#32 = BitVec.allOnes 17 ++ 0#5 ++ 0#5 ++ 0#5 := by decide
  constructor
  · simp only [hmask, condWord, BitVec.and_append (v := 5), BitVec.zero_and, BitVec.and_zero]
    rfl
  · simp [condWord, flagBits, b1_getLsbD_zero, BitVec.getLsbD_append (m := 1), BitVec.getLsbD_append (m := 5),
      -BitVec.getLsbD_eq_getElem]

/-- The reserved bits of DREG are 0, and each field is at its place (10_state.md R49). -/
theorem dregWord_fields (probe bus : Bool) (d : Dreg) {v : Word} (hv : v = dregWord probe bus d) :
    v &&& 0xC2FFC080#32 = 0#32 ∧ v.getLsbD 29 = d.iceDis ∧ v.getLsbD 28 = d.initOk ∧ v.getLsbD 27 = probe ∧
    v.getLsbD 26 = d.dm ∧ v.getLsbD 24 = (d.dm && bus) ∧ v.extractLsb' 9 5 = d.dExcCode ∧ v.getLsbD 8 = d.ssEn ∧
    v.getLsbD 6 = d.cause.ddblv ∧ v.getLsbD 5 = d.cause.dint ∧ v.getLsbD 4 = d.cause.dib ∧
    v.getLsbD 3 = d.cause.ddbs ∧ v.getLsbD 2 = d.cause.ddbla ∧ v.getLsbD 1 = d.cause.dbp ∧
    v.getLsbD 0 = d.cause.dss := by
  have hmask : 0xC2FFC080#32 =
      BitVec.allOnes 2 ++ 0#1 ++ 0#1 ++ 0#1 ++ 0#1 ++ BitVec.allOnes 1 ++ 0#1 ++ BitVec.allOnes 10 ++ 0#5 ++ 0#1 ++
        BitVec.allOnes 1 ++ 0#1 ++ 0#1 ++ 0#1 ++ 0#1 ++ 0#1 ++ 0#1 ++ 0#1 := by decide
  subst hv
  constructor
  · simp only [hmask, dregWord, BitVec.and_append (v := 1), BitVec.and_append (v := 5),
      BitVec.and_append (v := 10), BitVec.zero_and, BitVec.and_zero]
    rfl
  · simp [dregWord, b1_getLsbD_zero, BitVec.getLsbD_append (m := 1), BitVec.getLsbD_append (m := 5),
      BitVec.getLsbD_append (m := 10), extract_append_high (n := 1), extract_append_low (n := 5),
      -BitVec.getLsbD_eq_getElem]

/-! ## Reading and writing the control registers (45_system.md R480, R481) -/

/-- What `mtcr` leaves besides the control registers. -/
def CrFrame (s t : State) : Prop :=
  t.pc = s.pc + 4#32 ∧ SameRegs [] s t ∧ SameMem s t ∧ SameBuffer s t ∧ SameCe s t ∧ SameSpecial s t ∧ SameCops s t ∧
    SameHidden s t ∧ t.atbit = s.atbit ∧ t.ibrk = s.ibrk ∧ t.dbrk = s.dbrk

@[simp] theorem State.readCr_advance (s : State) (w : Width) (n : BitVec 5) : (s.advance w).readCr n = s.readCr n := rfl

/-- A write changes control registers and the counter of free values only. -/
theorem State.writeCr_eq {s t : State} {n : BitVec 5} {v : Word} (h : s.writeCr n v = some t) :
    ∃ psr cond ecr x ccr epc ema lim ldm dreg depc dsave k, t = { s with
      psr := psr, cond := cond, ecr := ecr, excpVec := x, ccr := ccr, epc := epc, ema := ema, limpfn := lim,
      ldmpfn := ldm, dreg := dreg, depc := depc, dsave := dsave, freeCtr := k } := by
  unfold State.writeCr at h
  split at h
  all_goals cases h
  all_goals exact ⟨_, _, _, _, _, _, _, _, _, _, _, _, _, rfl⟩

theorem State.crFrame_writeCr {s t : State} {n : BitVec 5} {v : Word} (h : s.writeCr n v = some t) :
    CrFrame s (t.advance .w32) := by
  obtain ⟨_, _, _, _, _, _, _, _, _, _, _, _, _, rfl⟩ := State.writeCr_eq h
  exact ⟨rfl, fun _ _ => rfl, fun _ => rfl, ⟨rfl, rfl⟩, ⟨rfl, rfl⟩, ⟨rfl, rfl, rfl⟩, ⟨rfl, rfl, rfl⟩,
    ⟨rfl, rfl, rfl, rfl, rfl, rfl, rfl, rfl, rfl⟩, rfl, rfl, rfl⟩

/-- A write of one control register leaves the others. -/
theorem State.readCr_writeCr_ne {s t : State} {n k : BitVec 5} {v : Word} (h : s.writeCr n v = some t) (hk : k ≠ n) :
    t.readCr k = s.readCr k := by
  have hne : k.toNat ≠ n.toNat := fun e => hk (BitVec.eq_of_toNat_eq e)
  unfold State.writeCr at h
  split at h
  all_goals cases h
  all_goals
    next hn =>
    simp only [hn] at hne
    unfold State.readCr
    split
    all_goals simp_all [State.pins]

/-- The writable bits of the control registers whose value after a write the spec gives (10_state.md R33 to R51). -/
def crMasks : List (BitVec 5 × Word) :=
  [(0#5, 0xF0FF003F#32), (1#5, 0x7FFF#32), (2#5, 0x30000#32), (3#5, 0xFFFF0001#32), (4#5, 0x7C#32),
    (5#5, 0xFFFFFFFE#32), (6#5, 0xFFFFFFFF#32), (18#5, 0#32), (29#5, 0x30000100#32),
    (30#5, 0xFFFFFFFE#32), (31#5, 0xFFFFFFFF#32)]

/-- A write changes the writable bits of its register. -/
theorem State.readCr_writeCr {s : State} {n : BitVec 5} {m old : Word} (hm : (n, m) ∈ crMasks)
    (hold : s.readCr n = some old) (v : Word) :
    ∃ t, s.writeCr n v = some t ∧ t.readCr n = some ((v &&& m) ||| (old &&& ~~~m)) := by
  simp only [crMasks, List.mem_cons, Prod.mk.injEq, List.not_mem_nil, or_false] at hm
  rw [← merged_word]
  rcases hm with ⟨rfl, rfl⟩ | ⟨rfl, rfl⟩ | ⟨rfl, rfl⟩ | ⟨rfl, rfl⟩ | ⟨rfl, rfl⟩ | ⟨rfl, rfl⟩ | ⟨rfl, rfl⟩ | ⟨rfl, rfl⟩ |
    ⟨rfl, rfl⟩ | ⟨rfl, rfl⟩ | ⟨rfl, rfl⟩
  all_goals obtain rfl := Option.some.inj hold
  · exact ⟨_, rfl, congrArg some (psrWord_write _ s.psr v)⟩
  · exact ⟨_, rfl, congrArg some (condWord_write s.cond v)⟩
  · exact ⟨_, rfl, congrArg some (ecrWord_write s.pins.irq s.ecr v)⟩
  · exact ⟨_, rfl, congrArg some (excpVecWord_write s.excpVec v)⟩
  · exact ⟨_, rfl, congrArg some (ccrWord_write s.ccr v)⟩
  · exact ⟨_, rfl, congrArg some (s.epc.word_write v)⟩
  · exact ⟨_, rfl, congrArg some (merged_allOnes_word v _)⟩
  · exact ⟨_, rfl, congrArg some (merged_zero v 0 _).symm⟩
  · exact ⟨_, rfl, congrArg some (dregWord_write _ _ s.dreg v)⟩
  · exact ⟨_, rfl, congrArg some (s.depc.word_write v)⟩
  · exact ⟨_, rfl, congrArg some (merged_allOnes_word v _)⟩

theorem exec_mfcr {s : State} {n : BitVec 5} {v : Word} (hok : s.crOk = true) (h : s.readCr n = some v)
    (rd : BitVec 5) : exec (.mfcr rd n) s = done .w32 (s.setR rd v) := by
  show execMfcr rd n s = _
  rw [execMfcr, whenCrOk_of_crOk hok, h]

theorem exec_mtcr {s t : State} {rd n : BitVec 5} (hok : s.crOk = true) (h : s.writeCr n (s.r rd) = some t) :
    exec (.mtcr rd n) s = done .w32 t := by
  show execMtcr rd n s = _
  rw [execMtcr, whenCrOk_of_crOk hok, h]

/-- `mtcr` of a register that exists. -/
theorem completes_mtcr {s t : State} {rd n : BitVec 5} (hok : s.crOk = true) (h : s.writeCr n (s.r rd) = some t) :
    Completes (exec (.mtcr rd n) s) fun u =>
      u.readCr n = t.readCr n ∧ (∀ k, k ≠ n → u.readCr k = s.readCr k) ∧ CrFrame s u :=
  ⟨t.advance .w32, exec_mtcr hok h, rfl, fun k hk => (t.readCr_advance .w32 k).trans (State.readCr_writeCr_ne h hk),
    State.crFrame_writeCr h⟩

/-- Settles O54: the words are laid out by their tables, a write merges the writable bits into the old word. -/
theorem controlRegisters : Obligations.ControlRegisters := by
  unfold Obligations.ControlRegisters
  intro s rd n hok
  refine ⟨rfl, ⟨_, rfl, condWord_fields s.cond⟩, rfl, rfl, rfl, rfl, rfl, rfl, rfl, ⟨_, rfl, ?prev⟩,
    ⟨_, rfl, dregWord_fields _ _ s.dreg rfl⟩, rfl, rfl, ?mfcr, ?mtcr, ?page⟩
  case prev =>
    rw [toNat_append_eq]
    simpa using Config.normPrev.isLt
  case mfcr =>
    intro v hv
    rw [exec_mfcr hok hv]
    exact completes_setR s rd v .w32
  case mtcr =>
    intro m hm old hold
    obtain ⟨t, ht, hread⟩ := State.readCr_writeCr hm hold (s.r rd)
    rw [← hread]
    exact completes_mtcr hok ht
  case page =>
    intro hn
    have hwrite : ∃ t, s.writeCr n (s.r rd) = some t := by
      rcases hn with rfl | rfl <;> exact ⟨_, rfl⟩
    obtain ⟨t, ht⟩ := hwrite
    refine (completes_mtcr hok ht).mono ?_
    rintro u ⟨-, hothers, hpc, hregs, hmem, hbuf, hce, hspecial, hcops, hhidden, -⟩
    exact ⟨hothers, hpc, hregs, hmem, hbuf, hce, hspecial, hcops, hhidden⟩

end Sys2Proof.Machine

namespace Sys2Proof.Machine

/-! ## What `cache` leaves alone (20_memory.md R114, R125, R126) -/

theorem State.onHit_eq (s : State) (a : Nat) (x : Cache × Memory) :
    ∃ m b d, s.onHit a x = { s with mem := m, wbuf := b, dcache := d } := by
  unfold State.onHit
  split
  · exact ⟨_, _, _, rfl⟩
  · exact ⟨s.mem, s.wbuf, s.dcache, rfl⟩

theorem State.toggleWb_eq (s : State) :
    ∃ m b, s.toggleWb = { s with mem := m, wbuf := b, ccr := { s.ccr with wb := !s.ccr.wb } } := by
  unfold State.toggleWb
  cases s.ccr.wb
  · exact ⟨s.mem, s.wbuf, rfl⟩
  · exact ⟨_, _, rfl⟩

/-- CCR after operation `n`: each toggle inverts its bit (20_memory.md R126). -/
def Ccr.toggled (c : Ccr) (n : Nat) : Ccr :=
  { c with
    ipfb := c.ipfb != decide (n = 0x11)
    wb := c.wb != decide (n = 0x1B)
    dpfb := c.dpfb != decide (n = 0x1C)
    wback := c.wback != decide (n = 0x1D) }

theorem Ccr.toggled_of_not_mem (c : Ccr) {n : Nat} (h : n ∉ [0x11, 0x1B, 0x1C, 0x1D]) : c.toggled n = c := by
  simp only [List.mem_cons, List.not_mem_nil, or_false, not_or] at h
  obtain ⟨h11, h1B, h1C, h1D⟩ := h
  simp [Ccr.toggled, h11, h1B, h1C, h1D]

/-- `t` is `s` with other caches, another write buffer, other memory, and CCR toggled as by operation `n`. -/
def CacheWrites (n : Nat) (s t : State) : Prop :=
  ∃ m b i d, t = { s with mem := m, wbuf := b, icache := i, dcache := d, ccr := s.ccr.toggled n }

/-- An operation that is no toggle leaves CCR. -/
theorem cacheWrites_of_arrays {n : Nat} {s t : State} (hn : n ∉ [0x11, 0x1B, 0x1C, 0x1D])
    (h : ∃ m b i d, t = { s with mem := m, wbuf := b, icache := i, dcache := d }) : CacheWrites n s t := by
  obtain ⟨m, b, i, d, rfl⟩ := h
  exact ⟨m, b, i, d, by rw [Ccr.toggled_of_not_mem _ hn]⟩

/-- A toggle writes its bit of CCR, and drains the write buffer where it disables it. -/
theorem cacheWrites_of_toggle {n : Nat} {s t : State} {c : Ccr} (hc : s.ccr.toggled n = c)
    (h : ∃ m b, t = { s with mem := m, wbuf := b, ccr := c }) : CacheWrites n s t := by
  obtain ⟨m, b, rfl⟩ := h
  exact ⟨m, b, s.icache, s.dcache, by rw [hc]⟩

theorem State.cacheWrites_cacheOp (s : State) (op : BitVec 5) (va : Word) :
    CacheWrites op.toNat s (s.cacheOp op va) := by
  have hfill : ∀ x, ∃ m b i d, s.setFill x = { s with mem := m, wbuf := b, icache := i, dcache := d } := by
    intro x
    obtain ⟨m, b, d, e⟩ := s.setFill_eq x
    exact ⟨m, b, s.icache, d, e⟩
  have hhit : ∀ x, ∃ m b i d, s.onHit va.toNat x = { s with mem := m, wbuf := b, icache := i, dcache := d } := by
    intro x
    obtain ⟨m, b, d, e⟩ := s.onHit_eq va.toNat x
    exact ⟨m, b, s.icache, d, e⟩
  unfold State.cacheOp
  simp only
  split
  case h_4 e | h_5 e => rw [e]; exact cacheWrites_of_arrays (by decide) (hfill _)
  case h_7 e | h_8 e => rw [e]; exact cacheWrites_of_arrays (by decide) (hhit _)
  case h_10 e | h_14 e | h_15 e => rw [e]; exact cacheWrites_of_toggle (by simp [Ccr.toggled]) ⟨_, _, rfl⟩
  case h_13 e => rw [e]; exact cacheWrites_of_toggle (by simp [Ccr.toggled]) s.toggleWb_eq
  case h_18 => exact cacheWrites_of_arrays (by simp_all) ⟨_, _, _, _, rfl⟩
  all_goals
    next e =>
    rw [e]
    exact cacheWrites_of_arrays (by decide) ⟨_, _, _, _, rfl⟩

/-- An ignored operation is a line operation, so no toggle. -/
theorem State.cacheWrites_cacheEffect (s : State) (op : BitVec 5) (va : Word) :
    CacheWrites op.toNat s (s.cacheEffect op va) := by
  unfold State.cacheEffect
  split
  case isTrue h =>
    have hline : op.toNat ∈ [0x00, 0x01, 0x08, 0x09, 0x0D, 0x0E] := of_decide_eq_true (Bool.and_eq_true_iff.mp h).1
    refine cacheWrites_of_arrays (fun htoggle => ?_) ⟨s.mem, s.wbuf, s.icache, s.dcache, rfl⟩
    simp only [List.mem_cons, List.not_mem_nil, or_false] at hline htoggle
    omega
  case isFalse => exact s.cacheWrites_cacheOp op va

/-- The statement speaks of CCR by the operation, the model by its number. -/
theorem Ccr.toggled_toNat (c : Ccr) (op : BitVec 5) :
    c.toggled op.toNat =
      { c with
        ipfb := c.ipfb != decide (op = 0x11#5)
        wb := c.wb != decide (op = 0x1B#5)
        dpfb := c.dpfb != decide (op = 0x1C#5)
        wback := c.wback != decide (op = 0x1D#5) } := by
  simp only [Ccr.toggled, BitVec.toNat_eq, BitVec.toNat_ofNat, Nat.reducePow, Nat.reduceMod]

/-! ## The checks of `cache` (20_memory.md R128 to R130) -/

theorem cacheLoads_iff (op : BitVec 5) :
    cacheLoads op = true ↔ op.toNat ∈ [0x00, 0x01, 0x03, 0x04, 0x08, 0x09, 0x0B] := decide_eq_true_iff

theorem cacheStores_iff (op : BitVec 5) : cacheStores op = true ↔ op.toNat ∈ [0x0D, 0x0E] := decide_eq_true_iff

theorem State.cacheIgnored_iff (s : State) (op : BitVec 5) (va : Word) : s.cacheIgnored op va = true ↔
    op.toNat ∈ [0x00, 0x01, 0x08, 0x09, 0x0D, 0x0E] ∧ s.cacheable va = false := by
  simp only [State.cacheIgnored, cacheLineOp, Bool.and_eq_true, decide_eq_true_iff, Bool.not_eq_true']

theorem State.localMemoryOp_iff (s : State) (op : BitVec 5) : s.localMemoryOp op = true ↔
    s.cfg.limPresent = true ∧ op.toNat ∈ [0x03, 0x04] ∨ s.cfg.ldmPresent = true ∧ op.toNat ∈ [0x0B, 0x0C] := by
  simp only [State.localMemoryOp, Bool.or_eq_true, Bool.and_eq_true, decide_eq_true_iff]

theorem State.localMemoryOp_eq_false {s : State} {op : BitVec 5}
    (hlim : s.cfg.limPresent = false ∨ op.toNat ∉ [0x03, 0x04])
    (hldm : s.cfg.ldmPresent = false ∨ op.toNat ∉ [0x0B, 0x0C]) : s.localMemoryOp op = false := by
  rw [Bool.eq_false_iff, ne_eq, State.localMemoryOp_iff]
  rintro (⟨hp, hop⟩ | ⟨hp, hop⟩)
  · exact hlim.elim (fun h => Bool.false_ne_true (h.symm.trans hp)) (fun h => h hop)
  · exact hldm.elim (fun h => Bool.false_ne_true (h.symm.trans hp)) (fun h => h hop)

/-- A prefetch or fill at a forbidden address. -/
theorem State.cacheAddrError_load {s : State} {op : BitVec 5} {va : Word} (hf : s.forbidden va = true)
    (hop : op.toNat ∈ [0x00, 0x01, 0x03, 0x04, 0x08, 0x09, 0x0B]) : s.cacheAddrError op va = some (.adelData va) := by
  rw [State.cacheAddrError, if_pos hf, if_pos ((cacheLoads_iff op).mpr hop)]

/-- The write-back of a line at a forbidden address. -/
theorem State.cacheAddrError_store {s : State} {op : BitVec 5} {va : Word} (hf : s.forbidden va = true)
    (hop : op.toNat ∈ [0x0D, 0x0E]) : s.cacheAddrError op va = some (.ades va) := by
  have hload : ¬ cacheLoads op = true := by
    rw [cacheLoads_iff]
    simp only [List.mem_cons, List.not_mem_nil, or_false] at hop ⊢
    omega
  rw [State.cacheAddrError, if_pos hf, if_neg hload, if_pos ((cacheStores_iff op).mpr hop)]

/-- An allowed address, or an operation that takes none, raises no address error. -/
theorem State.cacheAddrError_eq_none {s : State} {op : BitVec 5} {va : Word} (h : s.forbidden va = false ∨
    op.toNat ∉ [0x00, 0x01, 0x03, 0x04, 0x08, 0x09, 0x0B, 0x0D, 0x0E]) : s.cacheAddrError op va = none := by
  rcases h with h | h
  · simp [State.cacheAddrError, h]
  · simp_all [State.cacheAddrError, cacheLoads, cacheStores]

/-- The last check of `execCache`: the bus error of a prefetch or fill that is not ignored (decision D25). -/
def State.cacheBusError (s : State) (op : BitVec 5) (va : Word) : Bool :=
  cacheLoads op && !s.cacheIgnored op va && s.busError .load va

/-- A prefetch or fill that is not ignored raises the bus error at its address. -/
theorem State.cacheBusError_eq_true {s : State} {op : BitVec 5} {va : Word} (hb : s.busError .load va = true)
    (h : op.toNat ∈ [0x03, 0x04, 0x0B] ∨ op.toNat ∈ [0x00, 0x01, 0x08, 0x09] ∧ s.cacheable va = true) :
    s.cacheBusError op va = true := by
  have hload : cacheLoads op = true := by
    rw [cacheLoads_iff]
    simp only [List.mem_cons, List.not_mem_nil, or_false] at h ⊢
    omega
  have hheeded : s.cacheIgnored op va = false := by
    rw [Bool.eq_false_iff, ne_eq, State.cacheIgnored_iff]
    rintro ⟨hline, hc⟩
    rcases h with hlocal | ⟨-, hc'⟩
    · simp only [List.mem_cons, List.not_mem_nil, or_false] at hlocal hline
      omega
    · exact Bool.false_ne_true (hc.symm.trans hc')
  rw [State.cacheBusError, hload, hheeded, hb]
  rfl

/-- No bus error is there, the operation asks for none, or it is ignored. -/
theorem State.cacheBusError_eq_false {s : State} {op : BitVec 5} {va : Word}
    (h : s.busError .load va = false ∨ op.toNat ∉ [0x00, 0x01, 0x03, 0x04, 0x08, 0x09, 0x0B] ∨
      op.toNat ∈ [0x00, 0x01, 0x08, 0x09] ∧ s.cacheable va = false) : s.cacheBusError op va = false := by
  rw [← cacheLoads_iff] at h
  rcases h with hb | hload | ⟨hop, hc⟩
  · simp [State.cacheBusError, hb]
  · simp [State.cacheBusError, hload]
  · have hignored : s.cacheIgnored op va = true := by
      refine (s.cacheIgnored_iff op va).mpr ⟨?_, hc⟩
      simp only [List.mem_cons, List.not_mem_nil, or_false] at hop ⊢
      omega
    simp [State.cacheBusError, hignored]

/-! ## The outcomes of `cache` -/

section

variable {s : State} {op ra : BitVec 5} {imm : BitVec 15} (hop : cacheOpDefined op = true)
include hop

theorem exec_cache_of_addrError {x : Exc} (hx : s.cacheAddrError op (s.offsetAddr ra imm) = some x) :
    exec (.cache op ra imm) s = .next (takeException x .w32 s) := by
  show execCache op ra imm s = _
  simp [execCache, hop, hx, raise]

variable (hx : s.cacheAddrError op (s.offsetAddr ra imm) = none)
include hx

/-- `cache` past its address check. -/
theorem exec_cache_of_address : exec (.cache op ra imm) s =
    if s.cacheBusError op (s.offsetAddr ra imm) then raise .buselData .w32 s
    else if s.localMemoryOp op then .refused .localMemory
    else done .w32 (s.cacheEffect op (s.offsetAddr ra imm)) := by
  show execCache op ra imm s = _
  simp [execCache, hop, hx, State.cacheBusError]

theorem exec_cache_of_busError (hb : s.cacheBusError op (s.offsetAddr ra imm) = true) :
    exec (.cache op ra imm) s = .next (takeException .buselData .w32 s) := by
  rw [exec_cache_of_address hop hx, if_pos hb, raise]

variable (hb : s.cacheBusError op (s.offsetAddr ra imm) = false)
include hb

theorem exec_cache_of_localMemory (hl : s.localMemoryOp op = true) :
    exec (.cache op ra imm) s = .refused .localMemory := by
  rw [exec_cache_of_address hop hx, if_neg (Bool.eq_false_iff.mp hb), if_pos hl]

theorem exec_cache_of_allowed (hl : s.localMemoryOp op = false) :
    exec (.cache op ra imm) s = done .w32 (s.cacheEffect op (s.offsetAddr ra imm)) := by
  rw [exec_cache_of_address hop hx, if_neg (Bool.eq_false_iff.mp hb), if_neg (Bool.eq_false_iff.mp hl)]

end

/-- What an operation does is not changed by going on. -/
theorem cacheEffect_advance {n : Nat} {a : Word} {s t : State} (h : CacheEffect n a s t) (w : Width) :
    CacheEffect n a s (t.advance w) := h

/-- The controller ignores a line operation at an uncacheable address. -/
theorem State.cacheEffect_of_uncacheable (s : State) (op : BitVec 5) (va : Word)
    (hline : op.toNat ∈ [0x00, 0x01, 0x08, 0x09, 0x0D, 0x0E]) (hc : s.cacheable va = false) :
    SameArrays s (s.cacheEffect op va) := by
  rw [State.cacheEffect, if_pos ((s.cacheIgnored_iff op va).mpr ⟨hline, hc⟩)]
  exact ⟨rfl, rfl, rfl, rfl⟩

/-- An operation that the controller does not ignore has its effect. -/
theorem State.cacheEffect_of_heeded (s : State) (op : BitVec 5) (va : Word) (hwf : s.Wf = true)
    (h : op.toNat ∉ [0x00, 0x01, 0x08, 0x09, 0x0D, 0x0E] ∨ s.cacheable va = true) :
    CacheEffect op.toNat va s (s.cacheEffect op va) := by
  have hheeded : ¬ s.cacheIgnored op va = true := by
    rw [State.cacheIgnored_iff]
    rintro ⟨hline, hc⟩
    exact h.elim (fun hn => hn hline) (fun hc' => Bool.false_ne_true (hc.symm.trans hc'))
  rw [State.cacheEffect, if_neg hheeded]
  exact State.cacheOp_effect hwf op va

/-- Settles O58: the checks one after the other, then the effect of the operation. -/
theorem cacheInstruction : Obligations.CacheInstruction := by
  unfold Obligations.CacheInstruction
  intro s op ra imm va hva hop
  subst hva
  refine ⟨?load, ?store, ?bus, ?completes, ?stops⟩
  case load => exact fun hf hload => exec_cache_of_addrError hop (State.cacheAddrError_load hf hload)
  case store => exact fun hf hstore => exec_cache_of_addrError hop (State.cacheAddrError_store hf hstore)
  case bus =>
    intro hf hb hfills
    exact exec_cache_of_busError hop (State.cacheAddrError_eq_none (.inl hf)) (State.cacheBusError_eq_true hb hfills)
  case completes =>
    intro hf hb hlim hldm
    refine ⟨_, exec_cache_of_allowed hop (State.cacheAddrError_eq_none hf) (State.cacheBusError_eq_false hb)
      (State.localMemoryOp_eq_false hlim hldm), ?_⟩
    have hmem := fun hwf => State.sameMem_cacheEffect (s := s) hwf op (s.offsetAddr ra imm)
    have hignored := s.cacheEffect_of_uncacheable op (s.offsetAddr ra imm)
    have heffect := s.cacheEffect_of_heeded op (s.offsetAddr ra imm)
    obtain ⟨m, b, i, d, hu⟩ := s.cacheWrites_cacheEffect op (s.offsetAddr ra imm)
    rw [hu] at hmem hignored heffect ⊢
    exact ⟨rfl, fun _ _ => rfl, rfl, ⟨rfl, rfl⟩, ⟨rfl, rfl, rfl⟩, ⟨rfl, rfl, rfl, rfl, rfl⟩, ⟨rfl, rfl, rfl⟩, rfl, rfl,
      rfl, rfl, rfl, rfl, rfl, rfl, rfl, rfl, s.ccr.toggled_toNat op, hmem, hignored,
      fun hwf h => cacheEffect_advance (heffect hwf h) .w32⟩
  case stops =>
    intro hf hb hl
    exact exec_cache_of_localMemory hop (State.cacheAddrError_eq_none (.inl hf))
      (State.cacheBusError_eq_false (.inl hb)) ((s.localMemoryOp_iff op).mpr hl)

end Sys2Proof.Machine

namespace Sys2Proof.Machine

/-! ## What every load and store executes, its coprocessor ready or not -/

/-- The gate before an access: a coprocessor's instruction asks whether it is usable and present (44_ce_cop.md R442). -/
def DataAccess.gate (d : DataAccess) (s : State) (body : Result) : Result :=
  match d.cop with
  | none => body
  | some z => whenCop z s body

/-- The report that comes between the address check of an access and the bus (44_ce_cop.md R442 step 4). -/
def DataAccess.report (d : DataAccess) (s : State) : Option Exc := d.cop.bind s.copReport?

theorem DataAccess.gate_of_ready {d : DataAccess} {s : State} (h : d.copReady s) (body : Result) : d.gate s body = body := by
  unfold DataAccess.gate
  split
  case h_1 => rfl
  case h_2 z hz =>
    obtain ⟨hu, hp, -⟩ := h z hz
    exact whenCop_usable hu hp body

theorem DataAccess.report_of_ready {d : DataAccess} {s : State} (h : d.copReady s) : d.report s = none := by
  unfold DataAccess.report
  cases hz : d.cop with
  | none => rfl
  | some z =>
    obtain ⟨-, -, hr⟩ := h z hz
    exact if_neg (by simp [hr])

/-- An instruction is the load of its access, behind the gate, and writes what a load may write. -/
def LoadForm (s : State) (i : Instr) (d : DataAccess) : Prop :=
  ∃ put, exec i s = d.gate s (loadThen (encode i).width s d.acc (d.report s) put) ∧
    ∀ v u, ∃ ex, LoadWrites ex u (put v u)

/-- An instruction is the store of its access, behind the gate, and writes what a store may write. -/
def StoreForm (s : State) (i : Instr) (d : DataAccess) : Prop :=
  ∃ put, exec i s = d.gate s (storeThen (encode i).width s d.acc d.value (d.report s) put) ∧
    ∀ u, ∃ ex, StoreWrites ex u (put u)

section
variable {s : State} {i : Instr} {d : DataAccess} {x : Acc} {v : Word}

/-- A load without a coprocessor has no gate and no report. -/
theorem loadForm_intro {put : Word → State → State} (h : some ⟨.load, x, v, none⟩ = some d)
    (he : exec i s = loadThen (encode i).width s x none put) (hw : ∀ v u, ∃ ex, LoadWrites ex u (put v u)) :
    (d.kind = .load ∧ LoadForm s i d) ∨ (d.kind = .store ∧ StoreForm s i d) := by
  obtain rfl := Option.some.inj h
  exact .inl ⟨rfl, put, he, hw⟩

theorem loadForm_setR {rd : BitVec 5} {f : Word → Word} (h : some ⟨.load, x, v, none⟩ = some d)
    (he : exec i s = loadThen (encode i).width s x none fun v t => t.setR rd (f v)) :
    (d.kind = .load ∧ LoadForm s i d) ∨ (d.kind = .store ∧ StoreForm s i d) :=
  loadForm_intro h he fun v u => ⟨[rd], loadWrites_setR u rd (f v)⟩

theorem loadForm_setR2 {rd ra : BitVec 5} {f : Word → Word} {base : Word} (h : some ⟨.load, x, v, none⟩ = some d)
    (he : exec i s = loadThen (encode i).width s x none fun v t => t.setR2 rd (f v) ra base) :
    (d.kind = .load ∧ LoadForm s i d) ∨ (d.kind = .store ∧ StoreForm s i d) :=
  loadForm_intro h he fun v u => ⟨[rd, ra], loadWrites_setR2 u rd (f v) ra base⟩

/-- A store without a coprocessor has no gate and no report. -/
theorem storeForm_intro {put : State → State} (h : some ⟨.store, x, v, none⟩ = some d)
    (he : exec i s = storeThen (encode i).width s x v none put) (hw : ∀ u, ∃ ex, StoreWrites ex u (put u)) :
    (d.kind = .load ∧ LoadForm s i d) ∨ (d.kind = .store ∧ StoreForm s i d) := by
  obtain rfl := Option.some.inj h
  exact .inr ⟨rfl, put, he, hw⟩

theorem loadForm_cop {z : CopNum} {rd cra : BitVec 5} {imm : BitVec 10}
    (h : some ⟨.load, .at (s.copAddr rd imm) 4, 0#32, some z⟩ = some d) (he : exec i s = copLoad z rd cra imm s)
    (hw : (encode i).width = .w32) : (d.kind = .load ∧ LoadForm s i d) ∨ (d.kind = .store ∧ StoreForm s i d) := by
  obtain rfl := Option.some.inj h
  exact .inl ⟨rfl, _, by rw [he, hw]; rfl, fun _ _ => ⟨_, loadWrites_setCopData _ _ _ _⟩⟩

theorem storeForm_cop {z : CopNum} {rd cra : BitVec 5} {imm : BitVec 10}
    (h : some ⟨.store, .at (s.copAddr rd imm) 4, s.copData z cra, some z⟩ = some d) (he : exec i s = copStore z rd cra imm s)
    (hw : (encode i).width = .w32) : (d.kind = .load ∧ LoadForm s i d) ∨ (d.kind = .store ∧ StoreForm s i d) := by
  obtain rfl := Option.some.inj h
  exact .inr ⟨rfl, _, by rw [he, hw]; rfl, fun _ => ⟨_, storeWrites_refl _⟩⟩

/-- Every instruction that accesses memory is the load or the store of its access, behind its coprocessor's gate. -/
theorem form_of_dataAccess (h : s.dataAccess i = some d) :
    (d.kind = .load ∧ LoadForm s i d) ∨ (d.kind = .store ∧ StoreForm s i d) := by
  cases i with
  | lw | lw16 | lwp16 => exact loadForm_setR (f := id) h rfl
  | lh | lhu | lb | lbu | lh16 | lbu16 | lhp16 | lbup16 => exact loadForm_setR h rfl
  | lwPre | lwPost | pop16 => exact loadForm_setR2 (f := id) h rfl
  | lhPre | lhuPre | lbPre | lbuPre | lhPost | lhuPost | lbPost | lbuPost => exact loadForm_setR2 h rfl
  | lcb => exact loadForm_intro h rfl fun _ _ => ⟨_, LoadWrites.of_lcr (loadWrites_setR _ _ _)⟩
  | lcw => exact loadForm_intro h rfl fun _ _ => ⟨_, LoadWrites.of_lcr (loadWrites_setR2 _ _ _ _ _)⟩
  | lce rd ra =>
    by_cases h0 : s.combineOf ra = 0
    · exact absurd ((if_pos h0).symm.trans h) nofun
    · exact loadForm_intro ((if_neg h0).symm.trans h) (if_neg h0)
        fun _ _ => ⟨_, LoadWrites.of_lcr (loadWrites_setR2 _ _ _ _ _)⟩
  | alw => exact loadForm_intro h rfl fun _ _ => ⟨_, LoadWrites.of_atbit (loadWrites_setR _ _ _)⟩
  | ldc1 | ldc2 | ldc3 => exact loadForm_cop h rfl rfl
  | sw | sh | sb | sw16 | sh16 | sb16 | swp16 | shp16 | sbp16 =>
    exact storeForm_intro h rfl fun _ => ⟨_, storeWrites_refl _⟩
  | stc1 | stc2 | stc3 => exact storeForm_cop h rfl rfl
  | swPre | shPre | sbPre | swPost | shPost | sbPost | push16 =>
    exact storeForm_intro h rfl fun _ => ⟨_, storeWrites_setR _ _ _⟩
  | scb | scw => exact storeForm_intro h rfl fun _ => ⟨_, StoreWrites.of_scr (storeWrites_setR _ _ _)⟩
  | sce ra =>
    by_cases h0 : s.combineOf ra = 0
    · exact absurd ((if_pos h0).symm.trans h) nofun
    · exact storeForm_intro ((if_neg h0).symm.trans h) (if_neg h0) fun _ => ⟨_, storeWrites_setR _ _ _⟩
  | asw rd ra =>
    by_cases hat : s.atbit = true
    · exact storeForm_intro ((if_pos hat).symm.trans h) (if_pos hat) fun _ => ⟨_, storeWrites_setR _ _ _⟩
    · exact absurd ((if_neg hat).symm.trans h) nofun
  | _ => cases h

end

/-! ## What an instruction can do to the privileged state (60_exceptions.md R690) -/

/-- The control registers, but for the current flags, and the breakpoint unit. -/
structure Priv where
  psr : Psr
  ecr : Ecr
  excpVec : ExcpVec
  ccr : Ccr
  epc : SavedPc
  ema : Word
  limpfn : Word
  ldmpfn : Word
  dreg : Dreg
  depc : SavedPc
  dsave : Word
  ibrk : List InstrBreak
  dbrk : List DataBreak
  sav : Flags
  bak : Flags

/-- The privileged part of a state. -/
def State.priv (s : State) : Priv where
  psr := s.psr
  ecr := s.ecr
  excpVec := s.excpVec
  ccr := s.ccr
  epc := s.epc
  ema := s.ema
  limpfn := s.limpfn
  ldmpfn := s.ldmpfn
  dreg := s.dreg
  depc := s.depc
  dsave := s.dsave
  ibrk := s.ibrk
  dbrk := s.dbrk
  sav := s.cond.sav
  bak := s.cond.bak

/-- DREG is unchanged, and outside debug mode, where no access reaches the breakpoint unit, all privileged state is. -/
structure Keeps (s t : State) : Prop where
  dreg : t.dreg = s.dreg
  priv : s.dreg.dm = false → t.priv = s.priv

theorem Keeps.of_priv {s t : State} (h : t.priv = s.priv) : Keeps s t := ⟨congrArg Priv.dreg h, fun _ => h⟩

theorem Keeps.trans {s t u : State} (hst : Keeps s t) (htu : Keeps t u) : Keeps s u :=
  ⟨htu.dreg.trans hst.dreg, fun hd => (htu.priv (by rw [hst.dreg, hd])).trans (hst.priv hd)⟩

theorem keeps_setR2 (s : State) (i : BitVec 5) (v : Word) (j : BitVec 5) (w : Word) : Keeps s (s.setR2 i v j w) := by
  obtain ⟨g, k, h⟩ := s.setR2_eq i v j w
  exact .of_priv (by rw [h]; rfl)

theorem keeps_setR_setFlagsIf (s : State) (rd : BitVec 5) (v : Word) (cu : Bool) (f : Flags) :
    Keeps s ((s.setR rd v).setFlagsIf cu f) := by
  rw [State.setFlagsIf_eq]
  exact .of_priv rfl

theorem keeps_putShift (s : State) (rd : BitVec 5) (o : ShiftOut) (cu : Bool) : Keeps s (s.putShift rd o cu) := by
  unfold State.putShift
  split
  · split <;> exact .of_priv rfl
  · exact .of_priv rfl

theorem keeps_putCe (s : State) (u1 u2 : BitVec 5) (x : CeResult) : Keeps s (s.putCe u1 u2 x) := by
  unfold State.putCe
  obtain ⟨g, k, h⟩ := (s.setCe (x.ceHigh.getD s.ceh) (x.ceLow.getD s.cel)).putUsd_eq u1 u2 x
  exact .of_priv (by rw [h]; rfl)

theorem keeps_setCop (s : State) (z : CopNum) (c : CopRegs) : Keeps s (s.setCop z c) := by
  cases z <;> exact .of_priv rfl

theorem keeps_linkIf (s : State) (link : Bool) (w : Width) : Keeps s (s.linkIf link w) := by
  unfold State.linkIf
  split <;> exact .of_priv rfl

theorem keeps_countDown (s : State) (c : Cond) : Keeps s (s.countDown c) := by
  unfold State.countDown
  split <;> exact .of_priv rfl

theorem LoadWrites.keeps {ex : List (BitVec 5)} {u t : State} (h : LoadWrites ex u t) : Keeps u t := by
  obtain ⟨-, g, l, b, c1, c2, c3, k, rfl⟩ := h
  exact .of_priv rfl

theorem StoreWrites.keeps {ex : List (BitVec 5)} {u t : State} (h : StoreWrites ex u t) : Keeps u t := by
  obtain ⟨-, g, c, rfl⟩ := h
  exact .of_priv rfl

theorem keeps_afterLoad (s : State) (x : Acc) : Keeps s (s.afterLoad x) := by
  obtain ⟨m, b, d, p, h⟩ := s.afterLoad_eq x
  exact .of_priv (by rw [h]; rfl)

/-- A write to drseg changes breakpoints only. -/
theorem State.drsegWrite_eq (s : State) (off : Nat) (w : Word) :
    ∃ ib db, s.drsegWrite off w = { s with ibrk := ib, dbrk := db } := by
  unfold State.drsegWrite
  split
  · exact ⟨_, s.dbrk, rfl⟩
  · exact ⟨s.ibrk, _, rfl⟩
  · exact ⟨s.ibrk, s.dbrk, rfl⟩

/-- A store writes the breakpoint unit in debug mode only (60_exceptions.md R704). -/
theorem keeps_afterStore (s : State) (x : Acc) (v : Word) : Keeps s (s.afterStore x v) := by
  unfold State.afterStore
  split
  case isTrue => exact .of_priv rfl
  case isFalse =>
    split
    case isTrue hdrseg =>
      obtain ⟨ib, db, h⟩ := s.drsegWrite_eq (x.addr.toNat - 0xFFFF0000) v
      rw [h]
      exact ⟨rfl, fun hd => absurd hdrseg (by simp [State.drsegAt, hd])⟩
    case isFalse =>
      obtain ⟨d, h⟩ := s.touchD_eq x.addr
      rw [State.writeMem]
      obtain ⟨m, b, d', h'⟩ := (s.touchD x.addr).storeBytes_eq x.addr
        (valueBytes (s.touchD x.addr).cfg.bigEndian v x.bytes)
      exact .of_priv (by rw [h', h]; rfl)

/-- What a completed instruction can leave: the privileged state as it was; an exception, taken after CEH and CEL may have
been given up; a debug exception; or what the few instructions do that write control registers. -/
inductive ExecEnds (s : State) : Instr → State → Prop where
  | keeps {i t} (h : Keeps s t) : ExecEnds s i t
  | raises {i} (x : Exc) (w : Width) (h l : Word) (k : Nat) :
    ExecEnds s i (takeException x w { s with ceh := h, cel := l, freeCtr := k })
  | breaks {i} (y : DebugExc) (w : Width) : ExecEnds s i (debugEnter y w s)
  | cache {op ra imm u} (h : CacheWrites op.toNat s u) : ExecEnds s (.cache op ra imm) (u.advance .w32)
  | mtcr {rd n u} (hok : s.crOk = true) (h : s.writeCr n (s.r rd) = some u) : ExecEnds s (.mtcr rd n) (u.advance .w32)
  | rte (hok : s.crOk = true) : ExecEnds s .rte (returnFromException s)
  | drte (hok : s.crOk = true) : ExecEnds s .drte (returnFromDebug s)

/-- Every next state of an answer is one that the instruction can leave. -/
def Answers (s : State) (i : Instr) (r : Result) : Prop := ∀ t, r = .next t → ExecEnds s i t

section
variable {s : State} {i : Instr}

theorem Answers.next {t : State} (h : ExecEnds s i t) : Answers s i (.next t) := by
  rintro _ ⟨⟩
  exact h

theorem Answers.done {t : State} (w : Width) (h : Keeps s t) : Answers s i (done w t) :=
  .next (.keeps (h.trans (.of_priv rfl)))

theorem Answers.raise (x : Exc) (w : Width) : Answers s i (raise x w s) := .next (.raises x w s.ceh s.cel s.freeCtr)

theorem Answers.refused (q : Refusal) : Answers s i (.refused q) := by
  rintro _ ⟨⟩

theorem Answers.ite {p : Prop} [Decidable p] {a b : Result} (ha : Answers s i a) (hb : Answers s i b) :
    Answers s i (if p then a else b) := by
  split <;> assumption

theorem Answers.whenCrOk {body : Result} (h : s.crOk = true → Answers s i body) : Answers s i (whenCrOk s body) := by
  unfold Machine.whenCrOk
  split
  case isTrue hok => exact h hok
  case isFalse => exact .raise _ _

theorem Answers.whenCop {z : CopNum} {body : Result} (h : Answers s i body) : Answers s i (whenCop z s body) :=
  .ite (.raise _ _) (.ite (.raise _ _) h)

theorem Answers.copThen {z : CopNum} {t : State} (h : Keeps s t) : Answers s i (copThen z s t) := by
  refine .whenCop ?_
  split
  · exact .raise _ _
  · exact .done _ h

theorem Answers.onCheck {c : Check} {w : Width} {t : State} (h : Keeps s t) : Answers s i (onCheck c w s t) := by
  intro u hu
  rcases onCheck_next hu with ⟨-, rfl⟩ | ⟨x, -, rfl⟩ | ⟨y, -, rfl⟩
  · exact .keeps (h.trans (.of_priv rfl))
  · exact .raises x w s.ceh s.cel s.freeCtr
  · exact .breaks y w

theorem Answers.gate {d : DataAccess} {body : Result} (h : Answers s i body) : Answers s i (d.gate s body) := by
  unfold DataAccess.gate
  split
  · exact h
  · exact .whenCop h

/-- Loads and stores write no privileged state of their own. -/
theorem answers_of_dataAccess {d : DataAccess} (h : s.dataAccess i = some d) : Answers s i (exec i s) := by
  rcases form_of_dataAccess h with ⟨-, put, he, hw⟩ | ⟨-, put, he, hw⟩
  · rw [he]
    obtain ⟨ex, hput⟩ := hw (s.loadValue d.acc) (s.afterLoad d.acc)
    exact .gate (.onCheck ((keeps_afterLoad s d.acc).trans hput.keeps))
  · rw [he]
    obtain ⟨ex, hput⟩ := hw (s.afterStore d.acc d.value)
    exact .gate (.onCheck ((keeps_afterStore s d.acc d.value).trans hput.keeps))

theorem Answers.branchTo (w : Width) (c : Cond) (link : Bool) (target : Word) :
    Answers s i (branchTo w c link target s) := by
  have htaken : Keeps s (((s.linkIf link w).countDown c).jump target) :=
    ((keeps_linkIf s link w).trans (keeps_countDown _ c)).trans (.of_priv rfl)
  exact .ite (.next (.keeps htaken)) (.done w (keeps_linkIf s _ w))

theorem answers_cache (op ra : BitVec 5) (imm : BitVec 15) : Answers s (.cache op ra imm) (execCache op ra imm s) := by
  unfold execCache
  refine .ite (.raise _ _) ?_
  split
  · exact .raise _ _
  · refine .ite (.raise _ _) (.ite (.refused _) ?_)
    exact .next (.cache (s.cacheWrites_cacheEffect op _))

/-- What the instructions that access no memory can leave. -/
theorem answers_of_no_access (h : s.dataAccess i = none) : Answers s i (exec i s) := by
  cases i with
  | add | addc | sub | subc | neg | addi | addis | addri | and | or | xor | not | andi | andis | andri | ori | oris | orri
  | extsb | extsh | extzb | extzh | rol | roli | ror | rori | rolc | rolic | rorc | roric
  | add16 | addc16 | sub16 | neg16 | addei16 | subei16 | and16 | or16 | xor16 | not16 =>
    exact .done _ (keeps_setR_setFlagsIf _ _ _ _ _)
  | sll | slli | srl | srli | sra | srai | sll16 | srl16 | sra16 | slli16 | srli16 => exact .done _ (keeps_putShift _ _ _ _)
  | cmp | cmpz | cmpi | cmp16 | bitclr | bitset | bittgl | bittst | bitclr16 | bitset16 | bittgl16 | bittst16
  | ldi | ldis | ldiu16 | mv16 | mhfl16 | mlfh16 | nop | nop16 | pflush | tcond | tcond16
  | mul | mulu | mfcel | mfceh | mtcel | mtceh | mtcehl =>
    exact .done _ (.of_priv rfl)
  | mfcehl => exact .done _ (keeps_setR2 _ _ _ _ _)
  | j | jl | j16 | jl16 => exact .next (.keeps (.of_priv rfl))
  | bcond | bcondl | brcond | brcondl | bcond16 | brcond16 | brcondl16 => exact .branchTo _ _ _ _
  | mvcond => exact .ite (.refused _) (.ite (.done _ (.of_priv rfl)) (.done _ (.of_priv rfl)))
  | mfsr rd n =>
    show Answers s _ (execMfsr rd n s)
    unfold execMfsr
    split
    case h_4 => exact .raise _ _
    all_goals exact .done _ (.of_priv rfl)
  | mtsr ra n =>
    show Answers s _ (execMtsr ra n s)
    unfold execMtsr
    split
    case h_4 => exact .raise _ _
    all_goals exact .done _ (.of_priv rfl)
  | lce rd ra =>
    by_cases h0 : s.combineOf ra = 0
    · have hexec : exec (.lce rd ra) s = done .w32 (s.setR2 rd s.lcr ra (s.r ra + 4#32)) := if_pos h0
      rw [hexec]
      exact .done _ (keeps_setR2 _ _ _ _ _)
    · exact absurd ((if_neg h0).symm.trans h) nofun
  | sce ra =>
    by_cases h0 : s.combineOf ra = 0
    · have hexec : exec (.sce ra) s = done .w32 (s.setR ra (s.r ra + 4#32)) := if_pos h0
      rw [hexec]
      exact .done _ (.of_priv rfl)
    · exact absurd ((if_neg h0).symm.trans h) nofun
  | asw rd ra =>
    by_cases hat : s.atbit = true
    · exact absurd ((if_pos hat).symm.trans h) nofun
    · rw [exec_asw_of_clear (Bool.eq_false_iff.mpr hat)]
      split
      · exact .raise _ _
      · exact .done _ (.of_priv rfl)
  | div => exact .ite (.next (.raises _ _ _ _ _)) (.ite (.done _ (.of_priv rfl)) (.done _ (.of_priv rfl)))
  | divu => exact .ite (.next (.raises _ _ _ _ _)) (.done _ (.of_priv rfl))
  | ceinst => exact .ite (.raise _ _) (.ite (.raise _ _) (.done _ (keeps_putCe _ _ _ _)))
  | syscall => exact .raise _ _
  | trapcond =>
    exact .ite (.raise _ _) (.ite (.done _ (.of_priv rfl)) (.ite (.raise _ _) (.done _ (.of_priv rfl))))
  | sdbbp | sdbbp16 => exact .ite (.done _ (.of_priv rfl)) (.next (.breaks _ _))
  | cache op ra imm => exact answers_cache op ra imm
  | mfcr rd n =>
    refine .whenCrOk fun _ => ?_
    split
    · exact .done _ (.of_priv rfl)
    · exact .raise _ _
  | mtcr rd n =>
    refine .whenCrOk fun hok => ?_
    split
    case h_1 u hu => exact .next (.mtcr hok hu)
    case h_2 => exact .raise _ _
  | rte => exact .whenCrOk fun hok => .next (.rte hok)
  | drte => exact .whenCrOk fun hok => .next (.drte hok)
  | sleep => exact .whenCrOk fun _ => .done _ (.of_priv rfl)
  | stlb | mftlb | mtptlb | mtrtlb => exact .whenCrOk fun _ => .raise _ _
  | mtc1 | mtcc1 | cop1 | mtc2 | mtcc2 | cop2 | mtc3 | mtcc3 | cop3 => exact .copThen (keeps_setCop _ _ _)
  | mfc1 | mfcc1 | mfc2 | mfcc2 | mfc3 | mfcc3 => exact .copThen (.of_priv rfl)
  | _ => cases h

/-- What an instruction can leave, said once for all of them. -/
theorem exec_ends {t : State} (h : exec i s = .next t) : ExecEnds s i t := by
  cases hd : s.dataAccess i with
  | none => exact answers_of_no_access hd t h
  | some d => exact answers_of_dataAccess hd t h

end

end Sys2Proof.Machine

namespace Sys2Proof.Machine

/-! ## How a step without the reset input ends (60_exceptions.md R633) -/

/-- The state that the end of a step finishes. -/
inductive StepEnds (s : State) : State → Prop where
  | event (e : Event) (he : s.beginStep.event = some e) : StepEnds s (takeEvent e s.beginStep)
  | fetch (x : Exc) : StepEnds s (takeException x .w32 s.beginStep)
  | skip : StepEnds s (afterInstr .w16 s.beginStep s.afterSkip)
  | reject (c : Code) (pc : Word) (pce : Bool) : StepEnds s (takeException .ri c.width (s.beginStep.enterCode pc pce))
  | run {c pc pce i u} (hs : selectCode s.pcWord s.pc s.flags.t = .run c pc pce) (hd : decode c = .ok i)
    (he : exec i (s.beginStep.enterCode pc pce) = .next u) : StepEnds s (afterInstr c.width s.beginStep u)

/-- A step that answers a state to a core that stays asleep changes the inputs only; any other comes to its end. -/
def StepAnswers (s t : State) : Prop :=
  (s.sleeping = true ∧ s.beginStep.wakes = false ∧ t = s.beginStep.nextInputs) ∨
    ∃ v, StepEnds s v ∧ t = s.beginStep.endStep v

theorem commit_next {w : Width} {s t : State} {r : Result} (h : commit w s r = .next t) :
    ∃ u, r = .next u ∧ t = s.endStep (afterInstr w s u) := by
  cases r with
  | next u => exact ⟨u, rfl, (Host.Outcome.next.inj h).symm⟩
  | fault f => cases h
  | refused q => cases h

theorem stepEnds_fetched {s t : State} (h : runFetched s.beginStep s.beginStep.fetch = .next t) :
    ∃ v, StepEnds s v ∧ t = s.beginStep.endStep v := by
  have hsel := s.selected_beginStep
  unfold State.fetch at h
  split at h
  case h_1 x _ =>
    rw [runFetched, commit_raise] at h
    exact ⟨_, .fetch x, (Host.Outcome.next.inj h).symm⟩
  case h_2 => cases h
  case h_3 => cases h
  case h_4 =>
    split at h
    case h_1 =>
      rw [runFetched, commit_raise] at h
      exact ⟨_, .fetch _, (Host.Outcome.next.inj h).symm⟩
    case h_2 => exact ⟨_, .skip, (Host.Outcome.next.inj h).symm⟩
    case h_3 c pc pce hrun =>
      rw [runFetched, runCode] at h
      split at h
      case h_1 i hi =>
        obtain ⟨u, hu, ht⟩ := commit_next h
        exact ⟨_, .run (hsel ▸ hrun) hi hu, ht⟩
      case h_2 =>
        rw [commit_raise] at h
        exact ⟨_, .reject c pc pce, (Host.Outcome.next.inj h).symm⟩

/-- What a step can answer, said once. -/
theorem step_answers {s t : State} (hr : s.pins.reset = false) (h : step s = .next t) : StepAnswers s t := by
  rw [step, if_neg (by simp [hr]), runStep] at h
  split at h
  case isTrue hasleep =>
    rw [Bool.and_eq_true, Bool.not_eq_true'] at hasleep
    exact .inl ⟨hasleep.1, hasleep.2, (Host.Outcome.next.inj h).symm⟩
  case isFalse =>
    split at h
    case h_1 e he => exact .inr ⟨_, .event e he, (Host.Outcome.next.inj h).symm⟩
    case h_2 => exact .inr (stepEnds_fetched h)

/-! ## What the start and the end of a step leave alone -/

theorem State.endStep_eq (s t : State) : ∃ m b k, s.endStep t = { t with
    mem := m, wbuf := b, freeCtr := k, stepped := !s.dreg.dm && s.dreg.ssEn && !t.dreg.dm, inputs := t.inputs.tail,
    raised := false, pce := false } := by
  obtain ⟨n, k, h⟩ := t.drainSome_eq
  exact ⟨_, _, k, by rw [State.endStep, h]; rfl⟩

theorem State.enterCode_eq (s : State) (pc : Word) (pce : Bool) :
    ∃ c, s.enterCode pc pce = { s with icache := c, pc := pc, pce := pce } := by
  obtain ⟨c, h⟩ := s.fillI_eq s.pc
  exact ⟨c, by rw [State.enterCode, h]⟩

theorem State.afterSkip_eq (s : State) :
    ∃ c, s.afterSkip = { s.beginStep with icache := c, pc := wordAddr s.pc + 4#32 } := by
  obtain ⟨c, h⟩ := s.beginStep.fillI_eq s.pc
  exact ⟨c, by rw [State.afterSkip, h]⟩

@[simp] theorem State.endStep_dreg (s t : State) : (s.endStep t).dreg = t.dreg := by
  obtain ⟨m, b, k, h⟩ := s.endStep_eq t
  rw [h]

@[simp] theorem State.endStep_pc (s t : State) : (s.endStep t).pc = t.pc := by
  obtain ⟨m, b, k, h⟩ := s.endStep_eq t
  rw [h]

@[simp] theorem State.enterCode_dreg (s : State) (pc : Word) (pce : Bool) : (s.enterCode pc pce).dreg = s.dreg := by
  obtain ⟨c, h⟩ := s.enterCode_eq pc pce
  rw [h]

@[simp] theorem State.enterCode_depc (s : State) (pc : Word) (pce : Bool) : (s.enterCode pc pce).depc = s.depc := by
  obtain ⟨c, h⟩ := s.enterCode_eq pc pce
  rw [h]

/-! ## Leaving debug mode (60_exceptions.md R689) -/

/-- Taking a normal exception neither enters debug mode nor leaves it. -/
theorem takeException_dm (x : Exc) (w : Width) (s : State) : (takeException x w s).dreg.dm = s.dreg.dm := by
  unfold takeException
  split
  case isTrue hd => exact hd.symm
  case isFalse => rfl

/-- DM is no writable bit of DREG (10_state.md R49). -/
theorem State.writeCr_dm {s t : State} {n : BitVec 5} {v : Word} (h : s.writeCr n v = some t) :
    t.dreg.dm = s.dreg.dm := by
  unfold State.writeCr at h
  split at h
  all_goals cases h
  all_goals rfl

/-- `drte` is the only instruction that leaves debug mode. -/
theorem ExecEnds.dm_or_drte {s : State} {i : Instr} {t : State} (h : ExecEnds s i t) (hd : s.dreg.dm = true) :
    t.dreg.dm = true ∨ (i = .drte ∧ t = returnFromDebug s) := by
  cases h with
  | keeps h => exact .inl (by rw [h.dreg, hd])
  | raises x w => exact .inl ((takeException_dm _ _ _).trans hd)
  | breaks => exact .inl rfl
  | cache h =>
    obtain ⟨m, b, i, d, rfl⟩ := h
    exact .inl hd
  | mtcr _ h => exact .inl ((State.writeCr_dm h).trans hd)
  | rte => exact .inl hd
  | drte => exact .inr ⟨rfl, rfl⟩

/-- A step of debug mode that ends outside it has executed `drte`. -/
theorem StepEnds.drte_of_leaves {s v : State} (h : StepEnds s v) (hd : s.dreg.dm = true) (hv : v.dreg.dm = false) :
    ∃ c pc pce, selectCode s.pcWord s.pc s.flags.t = .run c pc pce ∧ decode c = .ok .drte ∧
      v = returnFromDebug (s.beginStep.enterCode pc pce) := by
  have hbegin : s.beginStep.dreg.dm = true := hd
  cases h with
  | event e he =>
    rw [State.event, if_pos hbegin] at he
    cases he
  | fetch x =>
    rw [takeException_dm, hbegin] at hv
    cases hv
  | skip =>
    obtain ⟨c, hskip⟩ := s.afterSkip_eq
    rw [afterInstr_of_debug hbegin, hskip, hbegin] at hv
    cases hv
  | reject c pc pce =>
    rw [takeException_dm, State.enterCode_dreg, hbegin] at hv
    cases hv
  | @run c pc pce i u hs hdec he =>
    rw [afterInstr_of_debug hbegin] at hv ⊢
    rcases (exec_ends he).dm_or_drte (by rw [State.enterCode_dreg, hbegin]) with hu | ⟨rfl, rfl⟩
    · rw [hu] at hv
      cases hv
    · exact ⟨c, pc, pce, hs, hdec, rfl⟩

theorem exec_drte {s : State} (h : s.crOk = true) : exec .drte s = .next (returnFromDebug s) := whenCrOk_of_crOk h _

theorem crOk_of_debug {s : State} (h : s.dreg.dm = true) : s.crOk = true := by simp [State.crOk, h]

/-- Settles O52: of what an instruction can leave, only `drte` leaves debug mode. -/
theorem leavingDebugMode : Obligations.LeavingDebugMode := by
  unfold Obligations.LeavingDebugMode
  refine ⟨?drte, ?onlyWay, ?rte⟩
  case drte =>
    intro s h
    exact ⟨_, exec_drte h, rfl, rfl, rfl, fun _ _ => rfl, rfl, fun _ => rfl, ⟨rfl, rfl⟩, ⟨rfl, rfl⟩, ⟨rfl, rfl, rfl⟩,
      ⟨rfl, rfl, rfl, rfl, rfl, rfl, rfl, rfl⟩, rfl, rfl, rfl, rfl, ⟨rfl, rfl, rfl⟩,
      ⟨rfl, rfl, rfl, rfl, rfl, rfl, rfl, rfl, rfl⟩, rfl⟩
  case onlyWay =>
    intro s t hd hr hstep ht
    rcases step_answers hr hstep with ⟨-, -, rfl⟩ | ⟨v, hv, rfl⟩
    · exact absurd (hd.symm.trans ht) nofun
    · rw [State.endStep_dreg] at ht
      obtain ⟨c, pc, pce, hs, hdec, rfl⟩ := hv.drte_of_leaves hd ht
      refine ⟨c, pc, pce, hs, hdec, ?_⟩
      rw [State.endStep_pc, returnFromDebug, State.enterCode_depc]
      rfl
  case rte =>
    intro s h
    exact ⟨_, exec_rte (crOk_of_debug h), rfl, rfl, rfl, rfl⟩

end Sys2Proof.Machine

namespace Sys2Proof.Machine

/-! ## What a step of user mode without CRA can do (60_exceptions.md R690, R691) -/

/-- `u` is `s` but for the pc and fields that no exception entry saves. -/
def SameForEntry (s u : State) : Prop :=
  ∃ pc h l n b i p r k, u = { s with
    pc := pc, ceh := h, cel := l, nmiPending := n, busErrPending := b, icache := i, pce := p, raised := r, freeCtr := k }

theorem sameForEntry_beginStep (s : State) (n b : Bool) :
    SameForEntry s { s.beginStep with nmiPending := n, busErrPending := b } :=
  ⟨s.pc, s.ceh, s.cel, n, b, s.icache, _, _, s.freeCtr, rfl⟩

theorem sameForEntry_enterCode (s : State) (pc : Word) (pce : Bool) (h l : Word) (k : Nat) :
    SameForEntry s { s.beginStep.enterCode pc pce with ceh := h, cel := l, freeCtr := k } := by
  obtain ⟨c, e⟩ := s.beginStep.enterCode_eq pc pce
  exact ⟨pc, h, l, _, s.busErrPending, c, pce, _, k, by rw [e]; rfl⟩

/-- CCR after an instruction that may toggle a cache or the write buffer (20_memory.md R126). -/
def UserCcr (s : State) (r : Ccr) : Prop :=
  r = s.ccr ∨ ∃ c pc pce op ra imm, selectCode s.pcWord s.pc s.flags.t = .run c pc pce ∧
    decode c = .ok (.cache op ra imm) ∧
    (op = 0x11#5 ∧ r = { s.ccr with ipfb := !s.ccr.ipfb } ∨ op = 0x1B#5 ∧ r = { s.ccr with wb := !s.ccr.wb } ∨
      op = 0x1C#5 ∧ r = { s.ccr with dpfb := !s.ccr.dpfb } ∨ op = 0x1D#5 ∧ r = { s.ccr with wback := !s.ccr.wback })

theorem Ccr.toggled_cases (c : Ccr) (op : BitVec 5) : c.toggled op.toNat = c ∨
    (op = 0x11#5 ∧ c.toggled op.toNat = { c with ipfb := !c.ipfb } ∨
      op = 0x1B#5 ∧ c.toggled op.toNat = { c with wb := !c.wb } ∨
      op = 0x1C#5 ∧ c.toggled op.toNat = { c with dpfb := !c.dpfb } ∨
      op = 0x1D#5 ∧ c.toggled op.toNat = { c with wback := !c.wback }) := by
  by_cases h11 : op = 0x11#5
  · subst h11
    exact .inr (.inl ⟨rfl, by simp [Ccr.toggled]⟩)
  by_cases h1B : op = 0x1B#5
  · subst h1B
    exact .inr (.inr (.inl ⟨rfl, by simp [Ccr.toggled]⟩))
  by_cases h1C : op = 0x1C#5
  · subst h1C
    exact .inr (.inr (.inr (.inl ⟨rfl, by simp [Ccr.toggled]⟩)))
  by_cases h1D : op = 0x1D#5
  · subst h1D
    exact .inr (.inr (.inr (.inr ⟨rfl, by simp [Ccr.toggled]⟩)))
  exact .inl (by simp [Ccr.toggled_toNat, h11, h1B, h1C, h1D])

/-- The ways in which a step of user mode without CRA ends. -/
inductive UserEnds (s : State) : State → Prop where
  | keeps {v r} (hr : UserCcr s r) (h : v.priv = { s.priv with ccr := r }) : UserEnds s v
  | normal {u} (x : Exc) (w : Width) (h : SameForEntry s u) : UserEnds s (enterNormal x w u)
  | debug {u} (y : DebugExc) (w : Width) (h : SameForEntry s u) : UserEnds s (debugEnter y w u)

theorem UserEnds.of_priv {s v : State} (h : v.priv = s.priv) : UserEnds s v := .keeps (.inl rfl) h

/-- What may discard an instruction's results is a normal exception, taken from the start of the step. -/
theorem afterInstr_cases (w : Width) (s t : State) : afterInstr w s t = t ∨
    ∃ x b, afterInstr w s t = enterNormal x w { s with busErrPending := b } := by
  unfold afterInstr
  split
  · exact .inl rfl
  split
  · exact .inr ⟨_, _, rfl⟩
  split
  · exact .inr ⟨_, s.busErrPending, rfl⟩
  · exact .inl rfl

theorem UserEnds.afterInstr {s v : State} (w : Width) (h : UserEnds s v) :
    UserEnds s (afterInstr w s.beginStep v) := by
  rcases afterInstr_cases w s.beginStep v with he | ⟨x, b, he⟩
  · rw [he]
    exact h
  · rw [he]
    exact .normal x w (sameForEntry_beginStep s _ b)

theorem userEnds_takeException {s u : State} (hd : s.dreg.dm = false) (h : SameForEntry s u) (x : Exc) (w : Width) :
    UserEnds s (takeException x w u) := by
  have hu : u.dreg.dm = false := by
    obtain ⟨_, _, _, _, _, _, _, _, _, rfl⟩ := h
    exact hd
  rw [takeException_of_not_debug hu]
  exact .normal x w h

/-- Without CRA an instruction of user mode does not write the control registers, a cache toggle apart. -/
theorem ExecEnds.user {s : State} {c : Code} {pc : Word} {pce : Bool} {i : Instr} {u : State}
    (hd : s.dreg.dm = false) (hok : s.crOk = false) (hs : selectCode s.pcWord s.pc s.flags.t = .run c pc pce)
    (hdec : decode c = .ok i) (h : ExecEnds (s.beginStep.enterCode pc pce) i u) : UserEnds s u := by
  have hentry := sameForEntry_enterCode s pc pce
  obtain ⟨l, e⟩ := s.beginStep.enterCode_eq pc pce
  rw [e] at h hentry
  cases h with
  | keeps h => exact .of_priv (h.priv hd)
  | raises x w a b k => exact userEnds_takeException hd (hentry a b k) x w
  | breaks y w => exact .debug y w (hentry s.ceh s.cel s.freeCtr)
  | @cache op ra imm _ h =>
    obtain ⟨m, b, i, d, rfl⟩ := h
    exact .keeps ((s.ccr.toggled_cases op).imp_right fun ht => ⟨c, pc, pce, op, ra, imm, hs, hdec, ht⟩) rfl
  | mtcr hok' => exact absurd (hok'.symm.trans hok) nofun
  | rte hok' => exact absurd (hok'.symm.trans hok) nofun
  | drte hok' => exact absurd (hok'.symm.trans hok) nofun

theorem StepEnds.user {s v : State} (hd : s.dreg.dm = false) (hok : s.crOk = false) (h : StepEnds s v) : UserEnds s v := by
  have hentry := sameForEntry_beginStep s s.beginStep.nmiPending s.busErrPending
  cases h with
  | event e =>
    cases e with
    | dbg y => exact .debug y .w32 hentry
    | nmi => exact .normal .nmi .w32 (sameForEntry_beginStep s false s.busErrPending)
    | interrupt n => exact .normal (.interrupt n) .w32 hentry
  | fetch x => exact userEnds_takeException hd hentry x .w32
  | skip =>
    obtain ⟨c, e⟩ := s.afterSkip_eq
    exact .afterInstr _ (.of_priv (by rw [e]; rfl))
  | reject c pc pce =>
    exact userEnds_takeException hd (sameForEntry_enterCode s pc pce _ _ _) .ri c.width
  | run hs hdec he => exact .afterInstr _ ((exec_ends he).user hd hok hs hdec)

/-- Settles O60: what a step of user mode leaves, its fields read off. -/
theorem userPrivilege : Obligations.UserPrivilege := by
  unfold Obligations.UserPrivilege
  intro s t humode hcra hr hstep
  obtain ⟨hd, hum⟩ : s.dreg.dm = false ∧ s.psr.umc = true := by simpa [State.userMode] using humode
  have hok : s.crOk = false := by simp [State.crOk, hd, hum, hcra]
  rcases step_answers hr hstep with ⟨-, -, rfl⟩ | ⟨v, hv, rfl⟩
  case inl =>
    exact .inl ⟨rfl, rfl, rfl, rfl, rfl, rfl, rfl, rfl, rfl, rfl, rfl, rfl, ⟨rfl, rfl⟩, .inl rfl⟩
  case inr =>
    obtain ⟨m, b, k, e⟩ := s.beginStep.endStep_eq v
    rw [e]
    cases hv.user hd hok with
    | @keeps v r hccr h =>
      refine .inl ⟨congrArg Priv.psr h, congrArg Priv.dreg h, congrArg Priv.ecr h, congrArg Priv.excpVec h,
        congrArg Priv.epc h, congrArg Priv.ema h, congrArg Priv.limpfn h, congrArg Priv.ldmpfn h, congrArg Priv.depc h,
        congrArg Priv.dsave h, congrArg Priv.ibrk h, congrArg Priv.dbrk h, ⟨congrArg Priv.sav h, congrArg Priv.bak h⟩, ?_⟩
      obtain rfl : v.ccr = r := congrArg Priv.ccr h
      exact hccr
    | normal x w h =>
      obtain ⟨_, _, _, _, _, _, _, _, _, rfl⟩ := h
      exact .inr (.inl ⟨x, rfl, rfl, rfl, rfl, rfl, rfl, rfl, rfl, rfl, rfl, rfl, rfl, rfl⟩)
    | debug y w h =>
      obtain ⟨_, _, _, _, _, _, _, _, _, rfl⟩ := h
      exact .inr (.inr ⟨y, rfl, rfl, rfl, rfl, rfl, rfl, rfl, rfl, rfl, rfl, rfl, rfl, rfl, rfl, rfl⟩)

end Sys2Proof.Machine

namespace Sys2Proof.Machine

/-! ## The events of an instruction boundary (60_exceptions.md R632, R633) -/

/-- The order of the events, in the terms of the state before the step. -/
theorem State.event_beginStep (s : State) : s.beginStep.event =
    if s.dreg.dm then none
    else if s.dreg.ssEn && s.stepped then some (.dbg .dss)
    else if s.pins.dint then some (.dbg .dint)
    else if s.ddblvPending then some (.dbg .ddblv)
    else if s.nmiPending || s.pins.nmi then some .nmi
    else if s.interruptAccepted then some (.interrupt s.pins.irq)
    else if s.dibHit then some (.dbg .dib)
    else none := by
  rw [State.event, State.dibHit_beginStep]
  rfl

/-- An awake core takes the event of its boundary. -/
theorem step_event {s : State} {e : Event} (h : Awake s) (he : s.beginStep.event = some e) :
    step s = .next (s.beginStep.endStep (takeEvent e s.beginStep)) := by
  obtain ⟨hr, hawake⟩ := h
  have hrun : ¬ (s.beginStep.sleeping && !s.beginStep.wakes) = true := by
    rcases hawake with hs | hw
    · simp [show s.beginStep.sleeping = false from hs]
    · simp [hw]
  rw [step, if_neg (by simp [hr]), runStep, if_neg hrun, he]

/-- Settles O59: each clause picks its branch of the order of events. -/
theorem boundaryEvents : Obligations.BoundaryEvents := by
  unfold Obligations.BoundaryEvents
  intro s h
  have hev := s.event_beginStep
  refine ⟨fun hd => ⟨by rw [hev, if_pos hd], rfl⟩, fun hd => ?_⟩
  have htake : ∀ e, s.beginStep.event = some e → step s = .next (s.beginStep.endStep (takeEvent e s.beginStep)) :=
    fun _ => step_event h
  rw [if_neg (by simp [hd])] at hev
  refine ⟨fun hdss => htake (.dbg .dss) (hev.trans (if_pos (Bool.and_eq_true _ _ ▸ hdss))), fun hdss => ?_⟩
  rw [← Bool.and_eq_true] at hdss
  rw [if_neg hdss] at hev
  refine ⟨fun hdint => htake (.dbg .dint) (hev.trans (if_pos hdint)), fun hdint => ?_⟩
  rw [if_neg (by simp [hdint])] at hev
  refine ⟨fun hddblv => htake (.dbg .ddblv) (hev.trans (if_pos hddblv)), fun hddblv => ?_⟩
  rw [if_neg (by simp [hddblv])] at hev
  refine ⟨fun hnmi => ?nmi, fun hpending hnmi => ?_⟩
  case nmi =>
    rw [takeException_of_not_debug (s := { s.beginStep with nmiPending := false }) hd]
    exact htake .nmi (hev.trans (if_pos (Bool.or_eq_true _ _ ▸ hnmi)))
  rw [if_neg (by simp [hpending, hnmi])] at hev
  rw [← State.interruptAccepted_iff]
  refine ⟨fun hirq => ?interrupt, fun hirq hawake => ?_⟩
  case interrupt =>
    rw [takeException_of_not_debug (s := s.beginStep) hd]
    exact htake (.interrupt s.pins.irq) (hev.trans (if_pos hirq))
  rw [if_neg hirq] at hev
  rw [← State.dibHit_iff]
  exact ⟨fun hdib => htake (.dbg .dib) (hev.trans (if_pos hdib)), fun hdib => ⟨h.1, hawake, hev.trans (if_neg hdib)⟩⟩

/-! ## Single step (60_exceptions.md R685) -/

/-- The end of a step sets `stepped` by the mode before the step and after it. -/
theorem State.endStep_stepped (s t : State) :
    (s.endStep t).stepped = (!s.dreg.dm && s.dreg.ssEn && !(s.endStep t).dreg.dm) := by
  obtain ⟨m, b, k, e⟩ := s.endStep_eq t
  rw [e]

/-- The step of an awake core comes to its end. -/
theorem StepAnswers.of_awake {s t : State} (h : Awake s) (ht : StepAnswers s t) : ∃ v, t = s.beginStep.endStep v := by
  obtain ⟨-, hawake⟩ := h
  rcases ht with ⟨hs, hw, -⟩ | ⟨v, -, rfl⟩
  · simp [hs, hw] at hawake
  · exact ⟨v, rfl⟩

/-- Settles O10: DSS is the first event of the boundary, and the end of every step sets `stepped`. -/
theorem singleStep : Obligations.SingleStep := by
  unfold Obligations.SingleStep
  intro s h
  constructor
  case left =>
    intro hd hss hstepped
    have hev : s.beginStep.event = some (.dbg .dss) := by simp [s.event_beginStep, hd, hss, hstepped]
    refine ⟨_, step_event h hev, ?_⟩
    obtain ⟨m, b, k, e⟩ := s.beginStep.endStep_eq (takeEvent (.dbg .dss) s.beginStep)
    rw [e]
    exact ⟨rfl, rfl, rfl, rfl, Bool.and_false _, rfl, rfl, rfl, rfl, fun _ _ => rfl⟩
  case right =>
    intro t hstep
    obtain ⟨v, rfl⟩ := (step_answers h.1 hstep).of_awake h
    exact s.beginStep.endStep_stepped v

/-! ## A step that runs an instruction (60_exceptions.md R633 steps 8 to 12) -/

/-- The buffered stores that leave by themselves change no byte that a load sees. -/
theorem State.endStep_buffer (s t : State) : SameMem t (s.endStep t) ∧
    ∃ n, (s.endStep t).wbuf = t.wbuf.drop n ∧ (s.endStep t).mem = t.mem.putStores (t.wbuf.take n) := by
  refine ⟨t.readByte_drainSome, ?_⟩
  obtain ⟨n, k, e⟩ := t.drainSome_eq
  rw [State.endStep, e]
  exact ⟨n, rfl, rfl⟩

/-- Settles O4: the step commits what the decoded instruction answers. -/
theorem stepRunsDecoded : Obligations.StepRunsDecoded := by
  unfold Obligations.StepRunsDecoded
  intro s c pc pce i hf hc hs hdec u hu
  obtain rfl : u = s.beginStep.enterCode pc pce := hu
  have hstep : step s = commit c.width s.beginStep (exec i (s.beginStep.enterCode pc pce)) := by
    rw [step_runs hf hc hs, runCode, hdec]
  have hnext : ∀ t v, exec i (s.beginStep.enterCode pc pce) = .next t → afterInstr c.width s.beginStep t = v →
      step s = .next (s.beginStep.endStep v) := by
    rintro t _ he rfl
    rw [hstep, he, commit]
  have hswi : s.beginStep.swiAccepted = true ↔ SwiRequested s := s.swiAccepted_iff
  refine ⟨fun f he => ?fault, fun q he => ?refused, fun t he h => hnext t _ he ?own,
    fun t he ht hd hb => hnext t _ he (afterInstr_of_busError ht hd hb),
    fun t he ht hd hb hi => hnext t _ he (afterInstr_of_swi ht hd hb (hswi.mpr hi)),
    fun t he ht hd hb hi => hnext t _ he (afterInstr_of_none hb (Bool.eq_false_iff.mpr (mt hswi.mp hi))),
    rfl, fun hp => ?half, fun hp => ?pce, s.beginStep.endStep_buffer⟩
  case fault => rw [hstep, he, commit]
  case refused => rw [hstep, he, commit]
  case own => exact if_pos ((Bool.or_eq_true _ _).mpr h)
  case half =>
    subst hp
    rfl
  case pce => exact if_pos hp

end Sys2Proof.Machine

namespace Sys2Proof.Machine

/-! ## Vectors (60_exceptions.md R655, R681) -/

/-- An offset from the exception base fills the low half of the vector. -/
theorem State.badr_add (s : State) (k : BitVec 16) : s.badr + k.setWidth 32 = s.excpVec.base ++ k := by
  apply BitVec.eq_of_toNat_eq
  have hb := s.excpVec.base.isLt
  have hk := k.isLt
  rw [BitVec.toNat_add, State.badr, toNat_append_eq, toNat_append_eq, BitVec.toNat_setWidth]
  simp only [BitVec.toNat_ofNat]
  omega

theorem State.debugVector_base {s : State} (h : (s.cfg.probeEn && !s.dreg.iceDis) = false) :
    s.debugVector = s.excpVec.base ++ 0x1FC#16 := by
  rw [State.debugVector, if_neg (by simp [h])]
  exact s.badr_add 0x1FC#16

theorem State.debugVector_probe {s : State} (h : (s.cfg.probeEn && !s.dreg.iceDis) = true) :
    s.debugVector = 0xFF000000#32 := if_pos h

/-- Settles O51: entry and re-entry go to the debug vector. -/
theorem debugVector : Obligations.DebugVector := by
  unfold Obligations.DebugVector
  refine ⟨fun s y x w t ht => ?_, rfl⟩
  have hpc : t.pc = s.debugVector := by
    rcases ht with rfl | ⟨hd, rfl⟩
    · rfl
    · rw [takeException_of_debug hd]
      rfl
  rw [hpc]
  exact ⟨fun hp => State.debugVector_base (by simp [hp]), fun _ hi => State.debugVector_base (by simp [hi]),
    fun hp hi => State.debugVector_probe (by simp [hp, hi])⟩

theorem State.vector_interrupt (s : State) (n : BitVec 6) : s.vector (.interrupt n) =
    (s.excpVec.base ++ 0x200#16) + BitVec.ofNat 32 ((if s.excpVec.vo then 16 else 4) * n.toNat) := by
  have hspacing : (if s.excpVec.vo then 16#32 else 4#32) = BitVec.ofNat 32 (if s.excpVec.vo then 16 else 4) := by
    split <;> rfl
  rw [BitVec.ofNat_mul, ← hspacing, BitVec.ofNat_toNat, ← s.badr_add]
  rfl

theorem State.vector_other (s : State) {x : Exc} (h : ∀ n, x ≠ .interrupt n) :
    s.vector x = s.excpVec.base ++ 0x200#16 := by
  rw [← s.badr_add]
  cases x with
  | interrupt n => exact absurd rfl (h n)
  | _ => rfl

/-! ## The entry to a normal exception (60_exceptions.md R650) -/

theorem Exc.ce?_eq_none {x : Exc} (h : ∀ z, x ≠ .ccu z ∧ x ≠ .cpe z) : x.ce? = none := by
  cases x with
  | ccu z => exact absurd rfl (h z).1
  | cpe z => exact absurd rfl (h z).2
  | _ => rfl

theorem Exc.ema?_eq_none {x : Exc} (h : ∀ a, x ≠ .adelInstr a ∧ x ≠ .pel a ∧ x ≠ .adelData a ∧ x ≠ .ades a) :
    x.ema? = none := by
  cases x with
  | adelInstr a => exact absurd rfl (h a).1
  | pel a => exact absurd rfl (h a).2.1
  | adelData a => exact absurd rfl (h a).2.2.1
  | ades a => exact absurd rfl (h a).2.2.2
  | _ => rfl

theorem Exc.mFree_eq_false {x : Exc} (h : ∀ a n, x ≠ .adelInstr a ∧ x ≠ .buselInstr ∧ x ≠ .pel a ∧ x ≠ .nmi ∧
    x ≠ .interrupt n ∧ x ≠ .swi) : x.mFree = false := by
  cases x with
  | adelInstr a => exact absurd rfl (h a 0).1
  | buselInstr => exact absurd rfl (h 0 0).2.1
  | pel a => exact absurd rfl (h a 0).2.2.1
  | nmi => exact absurd rfl (h 0 0).2.2.2.1
  | interrupt n => exact absurd rfl (h 0 n).2.2.2.2.1
  | swi => exact absurd rfl (h 0 0).2.2.2.2.2
  | _ => rfl

theorem exceptionFrame_enterNormal (x : Exc) (w : Width) (s : State) : ExceptionFrame s (enterNormal x w s) :=
  ⟨fun _ _ => rfl, fun _ => rfl, ⟨rfl, rfl⟩, ⟨rfl, rfl, rfl⟩, ⟨rfl, rfl, rfl⟩, rfl, rfl, rfl, rfl, rfl, rfl, rfl, rfl,
    rfl, rfl, rfl, rfl, rfl, ⟨rfl, rfl⟩⟩

/-- EPC.M is the width of the instruction where the exception defines it. -/
theorem enterNormal_epc_m {x : Exc} (hx : x.mFree = false) (w : Width) (s : State) :
    (enterNormal x w s).epc.m = true ↔ w = .w16 := by
  show savedM s x.mFree w = true ↔ w = .w16
  rw [hx]
  exact savedM_eq_true_iff s w

/-- Settles O49: the entry writes the listed fields, what the exception records by its kind, and the frame is the rest. -/
theorem normalEntry : Obligations.NormalEntry := by
  unfold Obligations.NormalEntry
  intro s t x w hd ht
  rw [takeException_of_not_debug hd] at ht
  subst ht
  refine ⟨rfl, rfl, rfl, rfl, rfl, rfl, ?ce, fun h => ?keepsCe, ?ema, fun h => ?keepsEma, rfl,
    fun h => enterNormal_epc_m (Exc.mFree_eq_false h) w s, ?interrupt, fun h => s.vector_other h, rfl, rfl, rfl,
    exceptionFrame_enterNormal x w s⟩
  case ce => rintro z (rfl | rfl) <;> rfl
  case keepsCe => exact congrArg (Option.getD · s.ecr.ce) (Exc.ce?_eq_none h)
  case ema => rintro a (rfl | rfl | rfl | rfl) <;> rfl
  case keepsEma => exact congrArg (Option.getD · s.ema) (Exc.ema?_eq_none h)
  case interrupt =>
    rintro n rfl
    exact s.vector_interrupt n

/-! ## Instructions that are unusable (60_exceptions.md R640) -/

/-- Every control-register instruction asks for the privilege first. -/
theorem exec_crInstr {i : Instr} (h : CrInstr i) (s : State) : ∃ body, exec i s = whenCrOk s body := by
  rcases h with ⟨rd, n, rfl | rfl⟩ | rfl | rfl | rfl | hslot
  case inr.inr.inr.inr => exact ⟨_, exec_tlbSlot hslot s⟩
  all_goals exact ⟨_, rfl⟩

theorem whenCrOk_of_not_crOk {s : State} (h : s.crOk = false) (body : Result) :
    whenCrOk s body = .next (takeException (.ccu 0#2) .w32 s) := if_neg (by simp [h])

theorem whenCop_unusable {z : CopNum} {s : State} (h : copBit z s.psr.cu = false) (body : Result) :
    whenCop z s body = .next (takeException (.ccu (copNumber z)) .w32 s) := if_pos (by simp [h])

/-- What CCU records outside debug mode. -/
theorem takeException_ccu {s : State} (hd : s.dreg.dm = false) (z : BitVec 2) {t : State}
    (ht : t = takeException (.ccu z) .w32 s) : t.ecr.excCode = 8#5 ∧ t.ecr.ce = z ∧ t.psr = s.psr.push ∧
      t.cond = s.cond.push ∧ t.epc = ⟨s.pc.extractLsb' 1 31, false⟩ := by
  subst ht
  rw [takeException_of_not_debug hd]
  exact ⟨rfl, rfl, rfl, rfl, rfl⟩

/-- Two exceptions of different codes leave different states. -/
theorem takeException_ne {x y : Exc} (h : x.code ≠ y.code) (v w : Width) (s : State) :
    takeException x v s ≠ takeException y w s := by
  intro he
  unfold takeException at he
  split at he
  case isTrue => exact h (congrArg (fun t : State => t.dreg.dExcCode) he)
  case isFalse => exact h (congrArg (fun t : State => t.ecr.excCode) he)

/-- With the privilege a control-register instruction takes no exception but RI. -/
theorem exec_crInstr_allowed {s t : State} {i : Instr} (h : CrInstr i) (hok : s.crOk = true) (ht : exec i s = .next t) :
    t.raised = s.raised ∨ t = takeException .ri .w32 s := by
  rcases h with ⟨rd, n, rfl | rfl⟩ | rfl | rfl | rfl | hslot
  case inl.inl =>
    change whenCrOk s _ = _ at ht
    rw [whenCrOk_of_crOk hok] at ht
    split at ht
    all_goals obtain rfl := Host.Outcome.next.inj ht
    · exact .inl rfl
    · exact .inr rfl
  case inl.inr =>
    change whenCrOk s _ = _ at ht
    rw [whenCrOk_of_crOk hok] at ht
    split at ht
    all_goals obtain rfl := Host.Outcome.next.inj ht
    case h_1 u hu =>
      obtain ⟨_, _, _, _, _, _, _, _, _, _, _, _, _, rfl⟩ := State.writeCr_eq hu
      exact .inl rfl
    case h_2 => exact .inr rfl
  case inr.inl =>
    rw [exec_rte hok] at ht
    exact .inl (Host.Outcome.next.inj ht ▸ rfl)
  case inr.inr.inl =>
    rw [exec_drte hok] at ht
    exact .inl (Host.Outcome.next.inj ht ▸ rfl)
  case inr.inr.inr.inl =>
    rw [exec_sleep hok] at ht
    exact .inl (Host.Outcome.next.inj ht ▸ rfl)
  case inr.inr.inr.inr =>
    rw [exec_tlbSlot hslot, whenCrOk_of_crOk hok] at ht
    exact .inr (Host.Outcome.next.inj ht).symm

/-- Settles O55: the gate raises CCU, and behind it nothing does. -/
theorem unusable : Obligations.Unusable := by
  unfold Obligations.Unusable
  refine ⟨?control, ?cop, ?converse⟩
  case control =>
    intro s i hi hd hum hcra
    obtain ⟨body, he⟩ := exec_crInstr hi s
    rw [he, whenCrOk_of_not_crOk (by simp [State.crOk, hd, hum, hcra])]
    obtain ⟨hcode, hce, hpsr, hcond, hepc⟩ := takeException_ccu hd 0#2 rfl
    exact ⟨_, rfl, rfl, hcode, hce, hpsr, hcond, hepc, takeException_sameRegs _ _ s⟩
  case cop =>
    intro s i z hi hcu
    obtain ⟨body, he⟩ := exec_copInstr hi s
    rw [he, whenCop_unusable hcu]
    exact ⟨_, rfl, rfl, fun hd => takeException_ccu hd _ rfl, takeException_sameRegs _ _ s⟩
  case converse =>
    intro s i hi hpriv hraised t ht
    have hok : s.crOk = true := by rcases hpriv with h | h | h <;> simp [State.crOk, h]
    rcases exec_crInstr_allowed hi hok ht with h | rfl
    · rintro rfl
      exact absurd ((takeException_raised _ _ s).symm.trans (h.trans hraised)) nofun
    · exact takeException_ne (by decide) _ _ s

end Sys2Proof.Machine

namespace Sys2Proof.Machine

/-! ## Data breakpoints (60_exceptions.md R688, R712) -/

section
variable {s : State} {b : DataBreak} {asid : Byte} {v : BusView}

/-- The match of addresses is the spec's condition: the Size code is the number of bytes less one. -/
theorem addrMatch_of_breakAddr (h : BreakAddr b asid v) : b.addrMatch asid v = true := by
  obtain ⟨hasid, hsize, hmask, hlanes⟩ := h
  have hcode : b.sz.toNat + 1 = v.bytes → sizeCode v.bytes = b.sz := by
    intro hn
    rw [sizeCode, ← hn, Nat.add_sub_cancel, BitVec.ofNat_toNat, BitVec.setWidth_eq]
  have hasid' : (!b.asidUse || asid == b.asid) = true := by simpa using hasid
  have hsize' : (b.noSz || sizeCode v.bytes == b.sz) = true := by simpa using hsize.imp_right hcode
  simp [DataBreak.addrMatch, hasid', hsize', maskedEq, hmask, hlanes]

theorem noValue_iff : b.noValue v = true ↔ BreakNoValue b v := beq_iff_eq

theorem valueMatch_of_breakValue (h : BreakValue b v) : b.valueMatch v = true := by
  have hlane : ∀ k, k < 4 → b.laneMatch v k = true := by
    intro k hk
    simpa [DataBreak.laneMatch, or_assoc] using h k hk
  simp [DataBreak.valueMatch, hlane]

variable (hd : s.dreg.dm = false) (hb : b ∈ s.dbrk) (hbe : b.be = true)
include hd hb hbe

theorem State.ddblaHit_of_break (hn : b.noLb = false) (ha : BreakAddr b s.cfg.curAsid v) (hv : BreakNoValue b v) :
    s.ddblaHit v = true := by
  simp only [State.ddblaHit, hd, Bool.not_false, Bool.true_and, List.any_eq_true]
  exact ⟨b, hb, by simp [hbe, hn, addrMatch_of_breakAddr ha, noValue_iff.mpr hv]⟩

theorem State.ddblvHit_of_break (hn : b.noLb = false) (ha : BreakAddr b s.cfg.curAsid v) (hnv : ¬ BreakNoValue b v)
    (hv : BreakValue b v) : s.ddblvHit v = true := by
  have hnv' : b.noValue v = false := Bool.eq_false_iff.mpr (mt noValue_iff.mp hnv)
  simp only [State.ddblvHit, hd, Bool.not_false, Bool.true_and, List.any_eq_true]
  exact ⟨b, hb, by simp [hbe, hn, addrMatch_of_breakAddr ha, hnv', valueMatch_of_breakValue hv]⟩

theorem State.ddbsHit_of_break (hn : b.noSb = false) (ha : BreakAddr b s.cfg.curAsid v)
    (hv : BreakNoValue b v ∨ BreakValue b v) : s.ddbsHit v = true := by
  have hvalue : (b.noValue v || b.valueMatch v) = true :=
    (Bool.or_eq_true _ _).mpr (hv.imp noValue_iff.mpr valueMatch_of_breakValue)
  simp only [State.ddbsHit, hd, Bool.not_false, Bool.true_and, List.any_eq_true]
  exact ⟨b, hb, by simp [hbe, hn, addrMatch_of_breakAddr ha, hvalue]⟩

end

section
variable {s : State} {i : Instr} {d : DataAccess} (h : s.dataAccess i = some d) (hc : d.copReady s)
include h hc

/-- A load whose coprocessor is ready has no gate. -/
theorem exec_load_of_ready (hk : d.kind = .load) : ∃ put, exec i s = loadThen (encode i).width s d.acc none put ∧
    ∀ v u, ∃ ex, LoadWrites ex u (put v u) := by
  rcases form_of_dataAccess h with ⟨-, put, he, hw⟩ | ⟨hk', -⟩
  · exact ⟨put, by rw [he, DataAccess.gate_of_ready hc, DataAccess.report_of_ready hc], hw⟩
  · exact absurd (hk.symm.trans hk') nofun

/-- A store whose coprocessor is ready has no gate. -/
theorem exec_store_of_ready (hk : d.kind = .store) :
    ∃ put, exec i s = storeThen (encode i).width s d.acc d.value none put := by
  rcases form_of_dataAccess h with ⟨hk', -⟩ | ⟨-, put, he, -⟩
  · exact absurd (hk.symm.trans hk') nofun
  · exact ⟨put, by rw [he, DataAccess.gate_of_ready hc, DataAccess.report_of_ready hc]⟩

theorem exec_ddbla (hk : d.kind = .load) (hhit : s.ddblaHit (d.acc.view s.cfg.bigEndian []) = true) :
    exec i s = .next (debugEnter .ddbla (encode i).width s) := by
  obtain ⟨put, he, -⟩ := exec_load_of_ready h hc hk
  rw [he, loadThen, State.checkLoad, State.loadBreak, if_pos hhit]
  rfl

theorem exec_ddbs (hk : d.kind = .store)
    (hhit : s.ddbsHit (d.acc.view s.cfg.bigEndian (valueBytes s.cfg.bigEndian d.value d.acc.bytes)) = true) :
    exec i s = .next (debugEnter .ddbs (encode i).width s) := by
  obtain ⟨put, he⟩ := exec_store_of_ready h hc hk
  rw [he, storeThen, State.checkStore, State.storeBreak, if_pos hhit]
  rfl

/-- A load that matches with its value completes, and leaves the report pending. -/
theorem exec_ddblv (hk : d.kind = .load) (hready : LoadReady s d.acc)
    (hhit : s.ddblvHit (d.acc.view s.cfg.bigEndian
      (valueBytes s.cfg.bigEndian (s.readMem d.acc.addr d.acc.bytes) d.acc.bytes)) = true) :
    Completes (exec i s) fun t => t.ddblvPending = true ∧ t.raised = s.raised ∧ t.pc = s.npc (encode i).width := by
  obtain ⟨put, he, hw⟩ := exec_load_of_ready h hc hk
  have hdrseg : inDrseg d.acc.addr = false := by
    obtain ⟨-, -, -, -, h⟩ := hready
    exact h
  have hvalue : s.loadValue d.acc = s.readMem d.acc.addr d.acc.bytes := if_neg (by simp [State.drsegAt, hdrseg])
  have hpending : (s.afterLoad d.acc).ddblvPending = true := by
    rw [State.afterLoad, hvalue, if_pos hhit]
  obtain ⟨m, b, c, p, e⟩ := s.afterLoad_eq d.acc
  obtain ⟨ex, -, g, l, a, c1, c2, c3, k, hput⟩ := hw (s.readMem d.acc.addr d.acc.bytes) (s.afterLoad d.acc)
  refine ⟨_, he.trans (loadThen_ready hready put), ?_⟩
  rw [hput]
  refine ⟨hpending, ?_⟩
  rw [e]
  exact ⟨rfl, rfl⟩

end

/-- Settles O40: the breakpoint is the first check of an access, the value match is asked when the load is done. -/
theorem dataBreakpoints : Obligations.DataBreakpoints := by
  unfold Obligations.DataBreakpoints
  intro s i d b h hc hd hb hbe
  refine ⟨?ddbla, ?ddbs, ?ddblv, d.acc.view_lanes s.cfg.bigEndian⟩
  case ddbla => exact fun hk hn ha hv => exec_ddbla h hc hk (State.ddblaHit_of_break hd hb hbe hn ha hv)
  case ddbs =>
    rintro _ rfl hk hn ha hv
    exact exec_ddbs h hc hk (State.ddbsHit_of_break hd hb hbe hn ha hv)
  case ddblv =>
    rintro _ rfl hk hn ha hnv hv hready
    exact exec_ddblv h hc hk hready (State.ddblvHit_of_break hd hb hbe hn ha hnv hv)

end Sys2Proof.Machine
